-- ==== Sys2Proof/Word.lean ====
section
/-! DEFINITION. The two unsigned widths of the spec (00_scope.md R8): `u8` and `u16`. There are no signed quantities. -/

namespace Sys2Proof

/-- `u8` (R8): one byte of a frame, one 8-bit register. -/
abbrev Byte := BitVec 8

/-- `u16` (R8): one holding register, one 16-bit register, one CRC. -/
abbrev Word := BitVec 16

end Sys2Proof
end

