-- ==== Sys2Proof/Syntax.lean ====
section
/-! DEFINITION. The instructions of MBCORE: one constructor for each row of spec/opcode_table.json, and the commands that stand for
them before decoding (30_encoding.md). -/

namespace Sys2Proof

/-- Who sent a frame (30_encoding.md R50: frame kinds are "told apart by who sends them and by bit 7 of byte 1"). -/
inductive Direction where
  /-- From the master to the slave: the receiver plays the slave role. -/
  | request
  /-- From the slave to the master: the receiver plays the master role. -/
  | response
  deriving DecidableEq, Repr

/-- What the host can present for execution, not decoded yet. -/
inductive Command where
  /-- The 4-bit operation select `OP` (R60). -/
  | op (code : BitVec 4)
  /-- A received buffer, byte 0 first (R8, R50), handed to the role its direction names (log 7). -/
  | frame (dir : Direction) (bytes : List Byte)
  deriving DecidableEq, Repr

/-- The rows of spec/opcode_table.json. The eleven operations have no operand fields (R60). -/
inductive Instr where
  | crcInit
  | crcByte
  | crc16
  | encReq
  | encExc
  | encRsp
  | decReq
  | decRsp
  | rtRead
  | respond
  | query
  | reservedOp0
  | reservedOpC
  | reservedOpD
  | reservedOpE
  | reservedOpF
  /-- R51 with function code 0x03. -/
  | frameReqReadHolding (slaveId : Byte) (startAddress quantity : Word) (crcLo crcHi : Byte)
  /-- R51 with any other function code (R56, R102). -/
  | frameReqOtherFunction (slaveId functionCode : Byte) (startAddress quantity : Word) (crcLo crcHi : Byte)
  /-- R52: `functionLow` is bits 6:0 of byte 1, whose bit 7 is clear; `data` is bytes 3 to `2 + byteCount`. -/
  | frameRspNormal (slaveId : Byte) (functionLow : BitVec 7) (byteCount : Byte) (data : List Byte) (crcLo crcHi : Byte)
  /-- R53: `functionLow` is bits 6:0 of byte 1, whose bit 7 is set. -/
  | frameRspException (slaveId : Byte) (functionLow : BitVec 7) (exceptionCode : Byte) (crcLo crcHi : Byte)
  deriving DecidableEq, Repr

end Sys2Proof
end

