-- ==== Sys2Proof/WellFormed.lean ====
section
/-! DEFINITION. Which terms of `Instr` stand for words of the spec's encoding. -/

namespace Sys2Proof

/-- The two checks the types do not make. A request of the "other function" row has a function code other than 0x03 (R56, R102:
0x03 is the row `FRAME_REQ_READ_HOLDING`). A normal response carries as many data bytes as its byte count says (R52, R59: its
length is `5 + byte_count`). -/
def Instr.wellFormed : Instr → Bool
  | .crcInit => true
  | .crcByte => true
  | .crc16 => true
  | .encReq => true
  | .encExc => true
  | .encRsp => true
  | .decReq => true
  | .decRsp => true
  | .rtRead => true
  | .respond => true
  | .query => true
  | .reservedOp0 => true
  | .reservedOpC => true
  | .reservedOpD => true
  | .reservedOpE => true
  | .reservedOpF => true
  | .frameReqReadHolding _ _ _ _ _ => true
  | .frameReqOtherFunction _ fc _ _ _ _ => fc != 0x03
  | .frameRspNormal _ _ n data _ _ => data.length == n.toNat
  | .frameRspException _ _ _ _ _ => true

end Sys2Proof
end

