-- ==== Sys2Proof/Decode.lean ====
section
/-! DEFINITION. The decoder (total on any command, rejecting by name), the encoder written from the same layouts, and the byte-order
helpers both use (30_encoding.md R50 to R61; 20_memory.md R31). The CRC is not looked at here: a frame's CRC bytes are fields of
its instruction, judged when it runs (R90). -/

namespace Sys2Proof

/-! ### Byte order (R8, R31) -/

/-- `hi(v) = v[15:8]` (R8). -/
def hiByte (v : Word) : Byte := v.extractLsb' 8 8

/-- `lo(v) = v[7:0]` (R8). -/
def loByte (v : Word) : Byte := v.extractLsb' 0 8

/-- A 16-bit number from its high and its low byte: `hi * 256 + lo` (R8). -/
def word (hi lo : Byte) : Word := hi ++ lo

/-- Byte `i` of a sequence (R8). Every use is below the sequence's length; above it the answer is 0. -/
def byteAt (B : List Byte) (i : Nat) : Byte := B.getD i 0

/-- `be16(B, i) = B[i]*256 + B[i+1]` (R8, R31). -/
def be16 (B : List Byte) (i : Nat) : Word := word (byteAt B i) (byteAt B (i + 1))

/-- `le16(B, i) = B[i] + 256*B[i+1]` (R8, R31). -/
def le16 (B : List Byte) (i : Nat) : Word := word (byteAt B (i + 1)) (byteAt B i)

/-- The bytes of 16-bit values, each high byte first (R31, R83). -/
def bytesOfWords : List Word → List Byte
  | [] => []
  | v :: vs => hiByte v :: loByte v :: bytesOfWords vs

/-- The first `q` big-endian values of a byte sequence (R93): `v_i = B[2i]*256 + B[2i+1]`, counted from the sequence's start. -/
def wordsOfBytes : Nat → List Byte → List Word
  | 0, _ => []
  | q + 1, B => be16 B 0 :: wordsOfBytes q (B.drop 2)

/-! ### Frame layouts (R7, R51 to R53) -/

/-- `FC_READ_HOLDING` (R7): the one function code served. -/
def fcReadHolding : Byte := 0x03

/-- `EXC_FLAG` (R7): the bit set in the function-code byte of an exception response. -/
def excFlag : Byte := 0x80

/-- `REQ_LEN` (R7): the length of a request frame. -/
abbrev reqLen : Nat := 8

/-- `EXC_LEN` (R7): the length of an exception response frame. -/
abbrev excLen : Nat := 5

/-- `RSP_MIN_LEN` (R7): the least length of any response frame; a normal response has `5 + byte_count` bytes (R59). -/
abbrev rspMinLen : Nat := 5

/-- The six payload bytes of a request (R51). -/
def requestPayload (id fc : Byte) (addr qty : Word) : List Byte :=
  [id, fc, hiByte addr, loByte addr, hiByte qty, loByte qty]

/-- The three payload bytes of an exception response (R53): byte 1 is `function_code | 0x80`. -/
def exceptionPayload (id fc code : Byte) : List Byte := [id, fc ||| excFlag, code]

/-- The payload of a normal response (R52) with its byte count and data bytes as given. -/
def responsePayload (id fc byteCount : Byte) (data : List Byte) : List Byte := id :: fc :: byteCount :: data

/-! ### The encoder -/

/-- Byte 1 of a normal response: bit 7 clear (R52). -/
def normalFunctionByte (low : BitVec 7) : Byte := low.setWidth 8

/-- Byte 1 of an exception response: bit 7 set (R53). -/
def exceptionFunctionByte (low : BitVec 7) : Byte := low.setWidth 8 ||| excFlag

/-- The bytes of `FRAME_REQ_READ_HOLDING` (R51). -/
def bytesReqReadHolding (id : Byte) (addr qty : Word) (crcLo crcHi : Byte) : List Byte :=
  requestPayload id fcReadHolding addr qty ++ [crcLo, crcHi]

/-- The bytes of `FRAME_REQ_OTHER_FUNCTION` (R51, R102). -/
def bytesReqOtherFunction (id fc : Byte) (addr qty : Word) (crcLo crcHi : Byte) : List Byte :=
  requestPayload id fc addr qty ++ [crcLo, crcHi]

/-- The bytes of `FRAME_RSP_NORMAL` (R52). -/
def bytesRspNormal (id : Byte) (low : BitVec 7) (n : Byte) (data : List Byte) (crcLo crcHi : Byte) : List Byte :=
  responsePayload id (normalFunctionByte low) n data ++ [crcLo, crcHi]

/-- The bytes of `FRAME_RSP_EXCEPTION` (R53). -/
def bytesRspException (id : Byte) (low : BitVec 7) (code crcLo crcHi : Byte) : List Byte :=
  [id, exceptionFunctionByte low, code, crcLo, crcHi]

/-- The command that stands for an instruction (R51 to R53, R60, R61). -/
def encode : Instr → Command
  | .reservedOp0 => .op 0x0
  | .crcInit => .op 0x1
  | .crcByte => .op 0x2
  | .crc16 => .op 0x3
  | .encReq => .op 0x4
  | .encExc => .op 0x5
  | .encRsp => .op 0x6
  | .decReq => .op 0x7
  | .decRsp => .op 0x8
  | .rtRead => .op 0x9
  | .respond => .op 0xA
  | .query => .op 0xB
  | .reservedOpC => .op 0xC
  | .reservedOpD => .op 0xD
  | .reservedOpE => .op 0xE
  | .reservedOpF => .op 0xF
  | .frameReqReadHolding id addr qty l h => .frame .request (bytesReqReadHolding id addr qty l h)
  | .frameReqOtherFunction id fc addr qty l h => .frame .request (bytesReqOtherFunction id fc addr qty l h)
  | .frameRspNormal id low n data l h => .frame .response (bytesRspNormal id low n data l h)
  | .frameRspException id low code l h => .frame .response (bytesRspException id low code l h)

/-! ### The decoder -/

/-- Why a received buffer is none of the frame kinds of the table. It still runs as what it is, a buffer (R152, log 9). -/
inductive DecodeError where
  /-- A request has 8 bytes (R51); a shorter buffer "is not a request" (R57 c), a longer one holds bytes past its frame (R57 d). -/
  | requestLength
  /-- A response has at least 5 bytes (R7, R92 step 1). -/
  | responseTooShort
  /-- An exception response has 5 bytes (R53), a normal one `5 + byte_count` (R59). -/
  | responseLength
  deriving DecidableEq, Repr

/-- The 4-bit operation select (R60, R61): all sixteen codes. -/
def decodeOp (code : BitVec 4) : Instr :=
  match code.toNat with
  | 0x1 => .crcInit
  | 0x2 => .crcByte
  | 0x3 => .crc16
  | 0x4 => .encReq
  | 0x5 => .encExc
  | 0x6 => .encRsp
  | 0x7 => .decReq
  | 0x8 => .decRsp
  | 0x9 => .rtRead
  | 0xA => .respond
  | 0xB => .query
  | 0xC => .reservedOpC
  | 0xD => .reservedOpD
  | 0xE => .reservedOpE
  | 0xF => .reservedOpF
  | _ => .reservedOp0

/-- A request buffer (R51): classified by byte 1 alone, 0x03 or not (R56). -/
def decodeRequest : List Byte → Except DecodeError Instr
  | [id, fc, a1, a0, q1, q0, l, h] =>
    if fc = fcReadHolding then .ok (.frameReqReadHolding id (word a1 a0) (word q1 q0) l h)
    else .ok (.frameReqOtherFunction id fc (word a1 a0) (word q1 q0) l h)
  | _ => .error .requestLength

/-- A response buffer (R52, R53): classified by bit 7 of byte 1 alone (R56); the CRC is the last two bytes (R59). -/
def decodeResponse : List Byte → Except DecodeError Instr
  | id :: fc :: b2 :: b3 :: b4 :: rest =>
    if fc.msb then
      if rest = [] then .ok (.frameRspException id (fc.setWidth 7) b2 b3 b4) else .error .responseLength
    else
      let tail := b3 :: b4 :: rest
      if rest.length = b2.toNat then
        .ok (.frameRspNormal id (fc.setWidth 7) b2 (tail.take b2.toNat) (byteAt tail b2.toNat) (byteAt tail (b2.toNat + 1)))
      else .error .responseLength
  | _ => .error .responseTooShort

/-- A received buffer, by its direction (R50). -/
def decodeFrame : Direction → List Byte → Except DecodeError Instr
  | .request, bytes => decodeRequest bytes
  | .response, bytes => decodeResponse bytes

/-- The decoder: total, and by name where a buffer is no frame of the table. -/
def decode : Command → Except DecodeError Instr
  | .op code => .ok (decodeOp code)
  | .frame dir bytes => decodeFrame dir bytes

/-! ### The words of spec/opcode_table.json (log 8) -/

/-- The `n` bytes of a number, the most significant first: the table writes a frame "as the … number whose most significant byte
is byte 0 on the wire". -/
def bytesOfNat : Nat → Nat → List Byte
  | 0, _ => []
  | n + 1, w => BitVec.ofNat 8 (w / 256 ^ n) :: bytesOfNat n w

/-- The length a response's first three bytes ask for (R53, R59). -/
def responseLengthOf (B : List Byte) : Nat :=
  if (byteAt B 1).msb then excLen else rspMinLen + (byteAt B 2).toNat

/-- `B` followed by zero bytes, up to the length its first three bytes ask for. -/
def padResponse (B : List Byte) : List Byte := B ++ List.replicate (responseLengthOf B - B.length) 0

/-- The command a word of the table stands for. A row of up to 8 bits is an `OP` (the code is its low four bits, R60); the 24-bit
row gives the first three bytes of a response, the 40-bit row all five of an exception response, the 64-bit rows a request. Bytes
the table gives no bits to are zero. -/
def commandOfTableWord (nbits w : Nat) : Command :=
  if nbits ≤ 8 then .op (BitVec.ofNat 4 w)
  else if nbits ≤ 24 then .frame .response (padResponse (bytesOfNat 3 w))
  else if nbits ≤ 40 then .frame .response (padResponse (bytesOfNat 5 w))
  else .frame .request (bytesOfNat 8 w)

/-- The instruction the decoder reads from a word of the table; `none` where it refuses. -/
def decodeTableWord (nbits w : Nat) : Option Instr := (decode (commandOfTableWord nbits w)).toOption

end Sys2Proof
end

