-- ==== Sys2Proof/Machine/CrcUnit.lean ====
section
/-! DEFINITION. The CRC-16 generator as functions (40_crc.md R70, R71, R75; 41_encode.md R80; 42_decode.md R90). Every CRC of the
model is computed here. -/

namespace Sys2Proof.Machine

/-- `POLY` (R7, R70). -/
def crcPoly : Word := 0xA001

/-- `CRC_INITVAL` (R7, R71). -/
def crcInitValue : Word := 0xFFFF

/-- One bit step of R70: bit 0 is tested before the shift; a logical right shift; then the polynomial when the tested bit was 1.
R70 as written; the spec itself marks this detail as general knowledge (G1, log 10). -/
def crcBit (c : Word) : Word := if c.getLsbD 0 then (c >>> 1) ^^^ crcPoly else c >>> 1

/-- `k` bit steps. -/
def crcBits : Nat → Word → Word
  | 0, c => c
  | k + 1, c => crcBits k (crcBit c)

/-- `crc_byte(c, b)` (R70): the byte enters bits 7:0, then eight bit steps. -/
def crcByte (c : Word) (b : Byte) : Word := crcBits 8 (c ^^^ b.setWidth 16)

/-- `crc16(B)` continued from a register value `c` (R71's loop). -/
def crcFrom (c : Word) : List Byte → Word
  | [] => c
  | b :: B => crcFrom (crcByte c b) B

/-- `crc16(B)` (R71): from 0xFFFF, bytes in index order, no final transformation. -/
def crc16 (B : List Byte) : Word := crcFrom crcInitValue B

/-- `with_crc(P)` (R80): the payload, then its CRC low byte first. -/
def withCrc (P : List Byte) : List Byte := P ++ [loByte (crc16 P), hiByte (crc16 P)]

/-- `crc_ok(B, k)` (R90): the two bytes at `k`, low byte first, are the CRC of the `k` bytes before them. -/
def crcOk (B : List Byte) (k : Nat) : Bool := le16 B k == crc16 (B.take k)

end Sys2Proof.Machine
end

