-- ==== Sys2Proof/Config.lean ====
section
/-! DEFINITION. The parameters of 00_scope.md R4 and the free value of 44_master.md R111. Each is OPEN in the spec, so each is an
opaque constant: no proof can see its value, and what is proved holds for every value in the parameter's range. -/

namespace Sys2Proof.Config

/-- Parameter `SLAVE_ID` (R4, D15): any 8-bit value. -/
opaque slaveId : Byte

/-- Parameter `REGTAB_INIT` (R4, D15) before its length is bounded: see `regTabInit`. -/
opaque regTabSource : List Word

/-- Parameter `REQ_CRC_CHECK` (R4, D7): `false` is 0, the observed design; `true` is 1, the recommended one. -/
opaque reqCrcCheck : Bool

/-- By how much `BUFCAP` exceeds its least value: see `bufCap`. -/
opaque bufCapExtra : Nat

/-- The most registers a 16-bit register address can reach (R4): the upper bound of `N`. -/
abbrev maxTableLen : Nat := 65536

/-- Parameter `REGTAB_INIT` (R4): a sequence of `N` values, `N` between 0 and 65536. -/
def regTabInit : List Word := regTabSource.take maxTableLen

/-- Parameter `BUFCAP` (R4, D13): the capacity of each frame buffer, any natural number of at least 259. -/
def bufCap : Nat := bufCapExtra + 259

/-- What `transport.receive` returns when `State.transport` holds no further answer (R111, U12, log 4): a free value, one for
each such call. Its length is bounded where it is used. -/
opaque transportAnswer : Nat → List Byte

end Sys2Proof.Config
end

