-- ==== Sys2Proof/Machine/State.lean ====
section
/-! DEFINITION. The state of MBCORE (10_state.md), the host steps and the transport it meets, the reasons a step can stop, and the
state after reset (R22). Plain data throughout. -/

namespace Sys2Proof.Machine

/-- A frame buffer (R17, R30): (index, byte) pairs with strictly rising indexes. An index that is not listed holds no value, as R23
says of a byte nothing has written since reset (log 2). -/
abbrev Memory := List Host.Cell

/-- The outcomes `STATUS` can hold (R14): six values, the codes 6 and 7 are never written (U17). The numeric codes are
`Status.code` in Flags.lean. -/
inductive Status where
  | ok
  | malformed
  | exception
  | timeout
  | outOfRange
  | notAddressed
  deriving DecidableEq, Repr

/-- The parameters a reset loads (R4, R140). -/
structure Params where
  slaveId : Byte
  regTabInit : List Word
  reqCrcCheck : Bool
  deriving DecidableEq, Repr

/-- The elements the host may not write (R21). -/
inductive ReadOnly where
  | rId | rFc | rAddr | rQty | rExc
  | status | crc | txBuf | txLen
  | slaveId | tableLen | reqCrcCheck | regTab
  deriving DecidableEq, Repr

/-- One host write (R21). `VALN` may only be written with 0 to 127. -/
inductive HostWrite where
  | aId (v : Byte)
  | aFc (v : Byte)
  | aAddr (v : Word)
  | aQty (v : Word)
  | aExc (v : Byte)
  | aByte (v : Byte)
  | val (i : Fin 127) (v : Word)
  | valN (n : Fin 128)
  | rxByte (i : Nat) (v : Byte)
  | rxLen (n : Nat)
  /-- A write R21 gives no meaning, whatever the value. -/
  | readOnly (r : ReadOnly)
  deriving DecidableEq, Repr

/-- One step of the host (R156): an access, a command to execute, or a reset (R140). -/
inductive HostStep where
  | command (c : Command)
  | write (w : HostWrite)
  /-- The host looks at any state it likes (R21): reading has no side effect (R24, log 18). -/
  | read
  | reset (p : Params)
  deriving DecidableEq, Repr

/-- The two actions of the transport (R111). -/
inductive TransportEvent where
  | send (bytes : List Byte)
  | receive (bytes : List Byte)
  deriving DecidableEq, Repr

/-- The model's view of the transport (R111, log 4): the answers `receive` will give, next first; how many answers were taken
past the end of that list; what has happened, oldest first. -/
structure Transport where
  answers : List (List Byte)
  taken : Nat
  trace : List TransportEvent
  deriving DecidableEq, Repr

/-- Which registers that operations read have been written since reset (R23, R141). No operation looks at this: it is what
`Safety.operandsWritten` reads (log 1). -/
structure Written where
  aId : Bool
  aFc : Bool
  aAddr : Bool
  aQty : Bool
  aExc : Bool
  aByte : Bool
  val : Vector Bool 127
  deriving DecidableEq, Repr

/-- Everything the spec gives the machine (10_state.md section 1; `TABLE_LEN` is `State.tableLen`), then the model's own fields:
the host steps to come, the transport, and which registers have been written. -/
structure State where
  aId : Byte
  aFc : Byte
  aAddr : Word
  aQty : Word
  aExc : Byte
  aByte : Byte
  rId : Byte
  rFc : Byte
  rAddr : Word
  rQty : Word
  rExc : Byte
  val : Vector Word 127
  valN : Nat
  status : Status
  crc : Word
  rxBuf : Memory
  rxLen : Nat
  txBuf : Memory
  txLen : Nat
  slaveId : Byte
  reqCrcCheck : Bool
  regTab : List Word
  host : List HostStep
  transport : Transport
  written : Written
  deriving DecidableEq, Repr

/-- `TABLE_LEN` (R15): the length `N` of the Register Table (log 11). -/
def State.tableLen (s : State) : Nat := s.regTab.length

/-- Memory faults: an access to a buffer byte that holds no value or does not exist. -/
inductive Fault where
  /-- An operation reads `RXBUF[index]`, which nothing has written since reset (R23, U9). Raised by every operation that reads
  RXBUF. Safe: the spec gives that read no result. -/
  | unwrittenByte (index : Nat)
  /-- The host writes `RXBUF[index]` with `index ≥ BUFCAP`, or `RXLEN` with `index > BUFCAP` (R17, R21). Raised by host writes.
  Safe: there is no such byte. -/
  | outsideBuffer (index : Nat)
  deriving DecidableEq, Repr

/-- Cases to which the spec gives no meaning (its word: `refuse`). -/
inductive Refusal where
  /-- An instruction that has no meaning in the model. Raised by `exec`'s arms only. Safe. -/
  | notModelled (mnemonic : String)
  /-- A reserved `OP` code is issued (R61, U10). Raised by the five `RESERVED_OP` instructions. Safe. -/
  | reservedOp (code : BitVec 4)
  /-- More than 127 values (R83, R100, R107 b, U8). Raised by `RT_READ`, `RESPOND` and the frames it serves, and by `ENC_RSP` where
  `VALN` is above 127, which no run reaches. Safe. -/
  | quantityAboveCapacity (count : Nat)
  /-- The transport delivers `length` bytes, more than `BUFCAP` (U13, D13). Raised by `QUERY` and by delivered frames. Safe. -/
  | bufferOverrun (length : Nat)
  /-- The host writes an element it may not write (R21, U11). Raised by host writes. Safe. -/
  | readOnlyWrite (r : ReadOnly)
  /-- A reset with a Register Table of more than 65536 entries (R4). Raised by host resets. Safe. -/
  | tableTooLong (length : Nat)
  deriving DecidableEq, Repr

/-- Nothing has been written (R22, R23). -/
def Written.none : Written :=
  { aId := false, aFc := false, aAddr := false, aQty := false, aExc := false, aByte := false, val := Vector.replicate 127 false }

/-- A transport that has not been used, with no answer fixed in advance (log 4). -/
def Transport.unused : Transport := { answers := [], taken := 0, trace := [] }

/-- The state after a reset with parameters `p` (R22). The values of `CRC`, `STATUS`, `RXLEN`, `TXLEN`, `VALN`, the
configuration and the table are the spec's; the zeros of the operand and result registers and of `VAL`, which R22 calls
unspecified, are the model's (DESIGN CHOICE, log 1); no byte of a buffer holds a value (R23). -/
def State.resetWith (p : Params) : State :=
  { aId := 0, aFc := 0, aAddr := 0, aQty := 0, aExc := 0, aByte := 0,
    rId := 0, rFc := 0, rAddr := 0, rQty := 0, rExc := 0,
    val := Vector.replicate 127 0, valN := 0,
    status := .ok, crc := 0xFFFF,
    rxBuf := [], rxLen := 0, txBuf := [], txLen := 0,
    slaveId := p.slaveId, reqCrcCheck := p.reqCrcCheck, regTab := p.regTabInit,
    host := [], transport := Transport.unused, written := Written.none }

/-- The parameters of this instantiation (R4, log 5). -/
def Params.configured : Params :=
  { slaveId := Config.slaveId, regTabInit := Config.regTabInit, reqCrcCheck := Config.reqCrcCheck }

/-- The machine right after reset (R22), with no host step to come (log 3). -/
def State.reset : State := State.resetWith Params.configured

end Sys2Proof.Machine
end

