-- ==== Sys2Proof/Machine/Flags.lean ====
section
/-! DEFINITION. `STATUS`, the only flag-like state (10_state.md R14): its codes, and the writing of an outcome (60_exceptions.md
R120). There are no carry, zero, overflow or condition-code flags. -/

namespace Sys2Proof.Machine

/-- The code of an outcome in the 3-bit register (R14). -/
def Status.code : Status → BitVec 3
  | .ok => 0
  | .malformed => 1
  | .exception => 2
  | .timeout => 3
  | .outOfRange => 4
  | .notAddressed => 5

/-- `STATUS <- X` as an operation's last action: `raise X` (R9, R120) and the normal end `STATUS <- OK` alike. Writes made before
it stay. -/
def State.raise (s : State) (x : Status) : State := { s with status := x }

end Sys2Proof.Machine
end

