-- ==== Sys2Proof/Machine/Ops.lean ====
section
/-! DEFINITION. The named operations over the buffers and the registers, and the one shared operation that stands for taking an
exception (60_exceptions.md R125). There is no return from one (R126): after any outcome the block is ready for the next operation. -/

namespace Sys2Proof.Machine

/-! ### Buffers (R17, R30) -/

/-- The byte at an index; `none` where nothing has written it (R23). -/
def Memory.read : Memory → Nat → Option Byte
  | [], _ => none
  | (a, b) :: m, i => if i = a then some b else Memory.read m i

/-- Write one byte, keeping the indexes strictly rising. -/
def Memory.write : Memory → Nat → Byte → Memory
  | [], i, v => [(i, v)]
  | (a, b) :: m, i, v =>
    if i < a then (i, v) :: (a, b) :: m
    else if i = a then (i, v) :: m
    else (a, b) :: Memory.write m i v

/-- `BUF[i] <- F[0], BUF[i+1] <- F[1], …` (R80, R112). -/
def Memory.writeBytes : Memory → Nat → List Byte → Memory
  | m, _, [] => m
  | m, i, b :: F => Memory.writeBytes (Memory.write m i b) (i + 1) F

/-- `BUF[i], …, BUF[i+n-1]` in index order; the first index that holds no value otherwise (R23). -/
def Memory.readBytes (m : Memory) : Nat → Nat → Except Nat (List Byte)
  | _, 0 => .ok []
  | i, n + 1 =>
    match Memory.read m i with
    | none => .error i
    | some b =>
      match Memory.readBytes m (i + 1) n with
      | .error j => .error j
      | .ok B => .ok (b :: B)

/-- Every index from here on is above `lo`. -/
def Memory.rising : Nat → Memory → Bool
  | _, [] => true
  | lo, (a, _) :: m => decide (lo < a) && Memory.rising a m

/-- The canonical form: strictly rising indexes. (That no entry equals what an unlisted index reads as holds by itself: an unlisted
index holds no value.) -/
def Memory.wf : Memory → Bool
  | [] => true
  | (a, _) :: m => Memory.rising a m

/-! ### Sequences into register files (R12) -/

/-- `V[i] <- x_0, V[i+1] <- x_1, …`; the other entries keep their values. -/
def setFrom {α : Type} {n : Nat} : List α → Nat → Vector α n → Vector α n
  | [], _, V => V
  | x :: xs, i, V => setFrom xs (i + 1) (V.setIfInBounds i x)

/-- `VAL[i] <- v_i` for each value, `VALN <-` their number (R12). -/
def State.writeVals (s : State) (vs : List Word) : State :=
  { s with
    val := setFrom vs 0 s.val
    valN := vs.length
    written := { s.written with val := setFrom (vs.map fun _ => true) 0 s.written.val } }

/-! ### The registers of a parse -/

/-- The four fields of a request (R11, R91). -/
structure Request where
  id : Byte
  fc : Byte
  addr : Word
  qty : Word
  deriving DecidableEq, Repr

/-- `R_ID, R_FC, R_ADDR, R_QTY <-` the fields (R91). -/
def State.writeRequest (s : State) (d : Request) : State :=
  { s with rId := d.id, rFc := d.fc, rAddr := d.addr, rQty := d.qty }

/-- `CRC <- c` where a decoder computed a CRC (R90), nothing where it did not. -/
def State.writeCrc (s : State) : Option Word → State
  | none => s
  | some c => { s with crc := c }

/-! ### The transmit buffer -/

/-- `TX <- with_crc(P)` (R80): the frame to `TXBUF`, its length to `TXLEN`, the computed CRC to `CRC`. -/
def State.sendPayload (s : State) (P : List Byte) : State :=
  { s with
    txBuf := Memory.writeBytes s.txBuf 0 (withCrc P)
    txLen := (withCrc P).length
    crc := crc16 P }

/-- `TXLEN <- 0`: no frame to send (R101, R105). -/
def State.sendNothing (s : State) : State := { s with txLen := 0 }

/-- The frame to send (R17): `TXBUF[0..TXLEN-1]`. -/
def State.txFrame (s : State) : Except Nat (List Byte) := Memory.readBytes s.txBuf 0 s.txLen

/-- TAKING AN EXCEPTION (R125): the exception response to a request `d` (R102, R103). `R_EXC <- code`, the frame
`[id, fc | 0x80, code, crc_lo, crc_hi]` to `TXBUF`, `TXLEN <- 5`, `STATUS <- EXCEPTION`. Nothing is saved and control goes nowhere. -/
def State.takeException (s : State) (d : Request) (code : Byte) : State :=
  (State.sendPayload { s with rExc := code } (exceptionPayload d.id d.fc code)).raise .exception

/-! ### The receive buffer and the transport (R111, R112) -/

/-- `RXBUF[i] <- rx[i]`, `RXLEN <- len(rx)` (R112); bytes above keep their values. -/
def State.storeRx (s : State) (rx : List Byte) : State :=
  { s with rxBuf := Memory.writeBytes s.rxBuf 0 rx, rxLen := rx.length }

/-- What `transport.receive(BUFCAP, …)` returns next: the next answer in the list, or past its end the free value, which is at most
`BUFCAP` bytes long like any answer (R111, log 4). -/
def Transport.nextAnswer (t : Transport) : List Byte :=
  match t.answers with
  | rx :: _ => rx
  | [] => (Config.transportAnswer t.taken).take Config.bufCap

/-- One exchange (R112): `send(F)`, then `receive`. -/
def Transport.exchange (t : Transport) (F : List Byte) : Transport :=
  match t.answers with
  | rx :: rest => { answers := rest, taken := t.taken, trace := t.trace ++ [.send F, .receive rx] }
  | [] => { answers := [], taken := t.taken + 1, trace := t.trace ++ [.send F, .receive t.nextAnswer] }

end Sys2Proof.Machine
end

