-- ==== Sys2Proof/Machine/Operands.lean ====
section
/-! DEFINITION. The operand forms: the bytes of `RXBUF` an operation reads, the sequence `VAL[0..VALN-1]`, and the bounds-checked
range of the Register Table; and the two parses of a received buffer (42_decode.md R91 to R94). -/

namespace Sys2Proof.Machine

/-- `VALCAP` (R4, D11): the most values the value file holds. -/
abbrev valCap : Nat := 127

/-- `VAL[0..VALN-1]` (R12). -/
def State.valSeq (s : State) : List Word := s.val.toList.take s.valN

/-- `RXBUF[0..n-1]` (R17): the first index that holds no value otherwise (R23). -/
def State.rxBytes (s : State) (n : Nat) : Except Nat (List Byte) := Memory.readBytes s.rxBuf 0 n

/-! ### The Register Table -/

/-- `MemRead(a, n)` (R33): `REGTAB[a], …, REGTAB[a+n-1]`, defined when `a + n ≤ N`. -/
def State.memRead (s : State) (a n : Nat) : List Word := (s.regTab.drop a).take n

/-- `rt_read(start, count)` (R100): `none` is `OutOfRange`. The sum is over the naturals, without wrap-around. -/
def State.rtRead (s : State) (start count : Word) : Option (List Word) :=
  if s.tableLen < start.toNat + count.toNat then none else some (s.memRead start.toNat count.toNat)

/-! ### A received request (R91) -/

/-- The outcome of a parse, with the CRC it computed, if it did. -/
inductive RequestParse where
  | malformed (crc : Option Word)
  | parsed (d : Request) (crc : Option Word)
  deriving DecidableEq, Repr

/-- The four fields in the first six bytes (R91, R54). -/
def requestOf (B : List Byte) : Request :=
  { id := byteAt B 0, fc := byteAt B 1, addr := be16 B 2, qty := be16 B 4 }

/-- The parse of `RXBUF[0..RXLEN-1]` as a request (R91); an error is the index of a byte it reads that holds no value. With the
check off bytes 6 and 7 are not read; bytes 8 and above never are. -/
def State.parseRequest (s : State) : Except Nat RequestParse :=
  if s.rxLen < reqLen then .ok (.malformed none)
  else if s.reqCrcCheck then
    match s.rxBytes reqLen with
    | .error i => .error i
    | .ok B =>
      if crcOk B 6 then .ok (.parsed (requestOf B) (some (crc16 (B.take 6))))
      else .ok (.malformed (some (crc16 (B.take 6))))
  else
    match s.rxBytes 6 with
    | .error i => .error i
    | .ok B => .ok (.parsed (requestOf B) none)

/-! ### A received response (R92 to R94) -/

/-- The result of `dec_rsp`, with the CRC computed, if step 3 was reached. -/
inductive Response where
  | malformed (crc : Option Word)
  | exceptionReceived (code : Byte) (crc : Word)
  | values (vs : List Word) (crc : Word)
  deriving DecidableEq, Repr

/-- Step 2 of R92: a normal response shorter than its byte count says, from bytes 1 and 2. -/
def shorterThanByteCount (len : Nat) (b1 b2 : Byte) : Bool := !b1.msb && decide (len < rspMinLen + b2.toNat)

/-- Steps 3 to 5 of R92, with R93 and R94: for a buffer of at least 5 bytes that is not shorter than its byte count says. -/
def decRspFrom3 (B : List Byte) : Response :=
  let c := crc16 (B.take (B.length - 2))
  if !crcOk B (B.length - 2) then .malformed (some c)
  else if (byteAt B 1).msb then .exceptionReceived (byteAt B 2) c
  else .values (wordsOfBytes ((byteAt B 2).toNat / 2) (B.drop 3)) c

/-- `dec_rsp(B)` (R92). -/
def decRsp (B : List Byte) : Response :=
  if B.length < rspMinLen then .malformed none
  else if shorterThanByteCount B.length (byteAt B 1) (byteAt B 2) then .malformed none
  else decRspFrom3 B

/-- `dec_rsp(RXBUF[0..RXLEN-1])` as an operation reads it: no byte before step 2, byte 1 and (for a normal response) byte 2 in step
2, all bytes from step 3 on (R92, log 16). An error is the index of a byte it reads that holds no value. -/
def State.parseResponse (s : State) : Except Nat Response :=
  if s.rxLen < rspMinLen then .ok (.malformed none)
  else
    match Memory.read s.rxBuf 1 with
    | none => .error 1
    | some b1 =>
      match (if b1.msb then some 0 else Memory.read s.rxBuf 2) with
      | none => .error 2
      | some b2 =>
        if shorterThanByteCount s.rxLen b1 b2 then .ok (.malformed none)
        else
          match s.rxBytes s.rxLen with
          | .error i => .error i
          | .ok B => .ok (decRspFrom3 B)

/-- What a parsed response writes (R95, R112): `CRC` if computed, then `R_EXC` or `VAL`, `VALN`, then `STATUS`. -/
def State.applyResponse (s : State) : Response → State
  | .malformed c => (s.writeCrc c).raise .malformed
  | .exceptionReceived e c => State.raise { s with crc := c, rExc := e } .exception
  | .values vs c => (State.writeVals { s with crc := c } vs).raise .ok

end Sys2Proof.Machine
end

