-- ==== Sys2Proof/Machine/Crc.lean ====
section
/-! DEFINITION. The CRC operations (40_crc.md R72 to R74). -/

namespace Sys2Proof.Machine

/-- `CRC_INIT` (R72). -/
def execCrcInit (s : State) : Host.Outcome State Fault Refusal :=
  .next (State.raise { s with crc := crcInitValue } .ok)

/-- `CRC_BYTE` (R73): continues from whatever `CRC` holds. -/
def execCrcByte (s : State) : Host.Outcome State Fault Refusal :=
  .next (State.raise { s with crc := crcByte s.crc s.aByte } .ok)

/-- `CRC16` (R74): the CRC of `RXBUF[0..RXLEN-1]`, whatever the bytes mean. -/
def execCrc16 (s : State) : Host.Outcome State Fault Refusal :=
  match s.rxBytes s.rxLen with
  | .error i => .fault (.unwrittenByte i)
  | .ok B => .next (State.raise { s with crc := crc16 B } .ok)

end Sys2Proof.Machine
end

