-- ==== Sys2Proof/Machine/Decoder.lean ====
section
/-! DEFINITION. The frame decoder (42_decode.md R91, R95). -/

namespace Sys2Proof.Machine

/-- `DEC_REQ` (R91). No field is judged; on `MALFORMED` the result registers keep their values. -/
def execDecReq (s : State) : Host.Outcome State Fault Refusal :=
  match s.parseRequest with
  | .error i => .fault (.unwrittenByte i)
  | .ok (.malformed c) => .next ((s.writeCrc c).raise .malformed)
  | .ok (.parsed d c) => .next (((s.writeCrc c).writeRequest d).raise .ok)

/-- `DEC_RSP` (R95). Neither the address, the function code nor the number of values is compared with anything (R96). -/
def execDecRsp (s : State) : Host.Outcome State Fault Refusal :=
  match s.parseResponse with
  | .error i => .fault (.unwrittenByte i)
  | .ok r => .next (s.applyResponse r)

end Sys2Proof.Machine
end

