-- ==== Sys2Proof/Machine/Encoder.lean ====
section
/-! DEFINITION. The frame encoder (41_encode.md R80 to R83). No operand is validated. -/

namespace Sys2Proof.Machine

/-- `TX <- with_crc([A_ID, 0x03, A_ADDR, A_QTY])` (R81), the first phase of `QUERY` too (R112). The function code is the constant
0x03, not `A_FC`. -/
def State.sendRequest (s : State) : State := s.sendPayload (requestPayload s.aId fcReadHolding s.aAddr s.aQty)

/-- `ENC_REQ` (R81). -/
def execEncReq (s : State) : Host.Outcome State Fault Refusal := .next (s.sendRequest.raise .ok)

/-- `ENC_EXC` (R82): bit 7 is set by the encoder; any code is serialised (D12). -/
def execEncExc (s : State) : Host.Outcome State Fault Refusal :=
  .next ((s.sendPayload (exceptionPayload s.aId s.aFc s.aExc)).raise .ok)

/-- `TX <- with_crc([id, fc, 2*q] ++ values)` (R83, R104), for at most 127 values. -/
def State.sendValues (s : State) (id fc : Byte) (vs : List Word) : State :=
  s.sendPayload (responsePayload id fc (BitVec.ofNat 8 (2 * vs.length)) (bytesOfWords vs))

/-- `ENC_RSP` (R83). `VALN` is at most 127 in every state a run reaches; above that the rule says refuse (D11). -/
def execEncRsp (s : State) : Host.Outcome State Fault Refusal :=
  if valCap < s.valN then .refused (.quantityAboveCapacity s.valN)
  else .next ((s.sendValues s.aId s.aFc s.valSeq).raise .ok)

end Sys2Proof.Machine
end

