-- ==== Sys2Proof/Machine/Responder.lean ====
section
/-! DEFINITION. The range read and the slave responder with its exception-response multiplexer (43_responder.md R100 to R107). -/

namespace Sys2Proof.Machine

/-- `RT_READ` (R100). `OUT_OF_RANGE` comes before the capacity refusal (R124). -/
def execRtRead (s : State) : Host.Outcome State Fault Refusal :=
  match s.rtRead s.aAddr s.aQty with
  | none => .next (s.raise .outOfRange)
  | some vs =>
    if valCap < s.aQty.toNat then .refused (.quantityAboveCapacity s.aQty.toNat)
    else .next ((s.writeVals vs).raise .ok)

/-- `EXC_ILLEGAL_FUNCTION` (R7, R121). -/
def excIllegalFunction : Byte := 1

/-- `EXC_ILLEGAL_DATA_ADDRESS` (R7, R121). -/
def excIllegalDataAddress : Byte := 2

/-- The select value of the multiplexer for a request that is not malformed (R106, rows 2 to 5). -/
inductive Select where
  /-- Row 2: another slave's request. No frame. -/
  | notAddressed
  /-- Rows 3 and 4: the exception frame with this code. -/
  | exception (code : Byte)
  /-- Row 5: the data frame with these values. -/
  | data (vs : List Word)
  deriving DecidableEq, Repr

/-- The exception-response multiplexer (R106): the first condition that holds decides, in the order of R124. -/
def State.select (s : State) (d : Request) : Select :=
  if d.id ≠ s.slaveId then .notAddressed
  else if d.fc ≠ fcReadHolding then .exception excIllegalFunction
  else
    match s.rtRead d.addr d.qty with
    | none => .exception excIllegalDataAddress
    | some vs => .data vs

/-- The answer to a request whose fields are in the result registers (R105, steps 2 to 5). More than 127 in-range values is the
case R107 b refuses. -/
def State.answer (s : State) (d : Request) : Host.Outcome State Fault Refusal :=
  match s.select d with
  | .notAddressed => .next (s.sendNothing.raise .notAddressed)
  | .exception code => .next (s.takeException d code)
  | .data vs =>
    if valCap < d.qty.toNat then .refused (.quantityAboveCapacity d.qty.toNat)
    else .next (((s.writeVals vs).sendValues d.id fcReadHolding vs).raise .ok)

/-- The slave responder (R105): on the received buffer as it is, zero or one response. -/
def State.serveRequest (s : State) : Host.Outcome State Fault Refusal :=
  match s.parseRequest with
  | .error i => .fault (.unwrittenByte i)
  | .ok (.malformed c) => .next ((s.writeCrc c).sendNothing.raise .malformed)
  | .ok (.parsed d c) => ((s.writeCrc c).writeRequest d).answer d

/-- `RESPOND` (R105). -/
def execRespond (s : State) : Host.Outcome State Fault Refusal := s.serveRequest

end Sys2Proof.Machine
end

