-- ==== Sys2Proof/Machine/Frames.lean ====
section
/-! DEFINITION. The frame rows of the table: a received buffer is stored in `RXBUF`, `RXLEN` as the host or the transport may (R17,
R21), then the operation of the role it is meant for runs on it: `RESPOND` for a request, `DEC_RSP` for a response (R56; log 7). -/

namespace Sys2Proof.Machine

/-- Deliver a buffer to the role its direction names and run that role's operation on it. A buffer longer than `BUFCAP` is outside
the spec (U13). -/
def State.receiveFrame (s : State) (dir : Direction) (bytes : List Byte) : Host.Outcome State Fault Refusal :=
  if Config.bufCap < bytes.length then .refused (.bufferOverrun bytes.length)
  else
    match dir with
    | .request => execRespond (s.storeRx bytes)
    | .response => execDecRsp (s.storeRx bytes)

/-- `FRAME_REQ_READ_HOLDING` (R51): acted on by `RESPOND`, steps 4 and 5 when addressed to this slave (R103, R104). -/
def execFrameReqReadHolding (id : Byte) (addr qty : Word) (crcLo crcHi : Byte) (s : State) :
    Host.Outcome State Fault Refusal :=
  s.receiveFrame .request (bytesReqReadHolding id addr qty crcLo crcHi)

/-- `FRAME_REQ_OTHER_FUNCTION` (R102): acted on by `RESPOND`, step 3 when addressed to this slave. -/
def execFrameReqOtherFunction (id fc : Byte) (addr qty : Word) (crcLo crcHi : Byte) (s : State) :
    Host.Outcome State Fault Refusal :=
  s.receiveFrame .request (bytesReqOtherFunction id fc addr qty crcLo crcHi)

/-- `FRAME_RSP_NORMAL` (R52): parsed by `DEC_RSP` (R93). -/
def execFrameRspNormal (id : Byte) (low : BitVec 7) (n : Byte) (data : List Byte) (crcLo crcHi : Byte) (s : State) :
    Host.Outcome State Fault Refusal :=
  s.receiveFrame .response (bytesRspNormal id low n data crcLo crcHi)

/-- `FRAME_RSP_EXCEPTION` (R53): parsed by `DEC_RSP` (R94). -/
def execFrameRspException (id : Byte) (low : BitVec 7) (code crcLo crcHi : Byte) (s : State) :
    Host.Outcome State Fault Refusal :=
  s.receiveFrame .response (bytesRspException id low code crcLo crcHi)

end Sys2Proof.Machine
end

