-- ==== Sys2Proof/Machine/Master.lean ====
section
/-! DEFINITION. The master query (44_master.md R110 to R112): encode, one send, one receive, classify. -/

namespace Sys2Proof.Machine

/-- The exchange in the middle of `QUERY` (R112): the frame in `TXBUF` is sent, the answer is stored in `RXBUF`, `RXLEN`. -/
def State.exchangeFrame (s : State) : State :=
  State.storeRx
    { s with transport := s.transport.exchange (withCrc (requestPayload s.aId fcReadHolding s.aAddr s.aQty)) }
    s.transport.nextAnswer

/-- The classification of an answer (R110, R112): no bytes is a timeout, the rest is `dec_rsp`'s. -/
def State.classify (s : State) (rx : List Byte) : State :=
  if rx.length = 0 then s.raise .timeout else s.applyResponse (decRsp rx)

/-- The next answer is longer than `BUFCAP` (U13). The free value never is: its length is bounded. -/
def Transport.overruns (t : Transport) : Bool :=
  match t.answers with
  | rx :: _ => decide (Config.bufCap < rx.length)
  | [] => false

/-- `QUERY` (R112). An answer longer than `BUFCAP` is outside the spec (U13). -/
def execQuery (s : State) : Host.Outcome State Fault Refusal :=
  if s.transport.overruns then .refused (.bufferOverrun s.transport.nextAnswer.length)
  else .next (s.sendRequest.exchangeFrame.classify s.transport.nextAnswer)

end Sys2Proof.Machine
end

