-- ==== Sys2Proof/Machine/Reserved.lean ====
section
/-! DEFINITION. The reserved operation codes (30_encoding.md R61): "The spec gives them no meaning: a model refuses them". -/

namespace Sys2Proof.Machine

/-- `OP = 0x0` (R61). -/
def execReservedOp0 (_s : State) : Host.Outcome State Fault Refusal := .refused (.reservedOp 0x0)

/-- `OP = 0xC` (R61). -/
def execReservedOpC (_s : State) : Host.Outcome State Fault Refusal := .refused (.reservedOp 0xC)

/-- `OP = 0xD` (R61). -/
def execReservedOpD (_s : State) : Host.Outcome State Fault Refusal := .refused (.reservedOp 0xD)

/-- `OP = 0xE` (R61). -/
def execReservedOpE (_s : State) : Host.Outcome State Fault Refusal := .refused (.reservedOp 0xE)

/-- `OP = 0xF` (R61). -/
def execReservedOpF (_s : State) : Host.Outcome State Fault Refusal := .refused (.reservedOp 0xF)

end Sys2Proof.Machine
end

