-- ==== Sys2Proof/Machine/Dispatch.lean ====
section
/-! DEFINITION. One arm per row of spec/opcode_table.json. -/

namespace Sys2Proof.Machine

def exec (i : Instr) (s : State) : Host.Outcome State Fault Refusal :=
  match i with
  | .crcInit => Sys2Proof.Machine.execCrcInit s
  | .crcByte => Sys2Proof.Machine.execCrcByte s
  | .crc16 => Sys2Proof.Machine.execCrc16 s
  | .encReq => Sys2Proof.Machine.execEncReq s
  | .encExc => Sys2Proof.Machine.execEncExc s
  | .encRsp => Sys2Proof.Machine.execEncRsp s
  | .decReq => Sys2Proof.Machine.execDecReq s
  | .decRsp => Sys2Proof.Machine.execDecRsp s
  | .rtRead => Sys2Proof.Machine.execRtRead s
  | .respond => Sys2Proof.Machine.execRespond s
  | .query => Sys2Proof.Machine.execQuery s
  | .reservedOp0 => Sys2Proof.Machine.execReservedOp0 s
  | .reservedOpC => Sys2Proof.Machine.execReservedOpC s
  | .reservedOpD => Sys2Proof.Machine.execReservedOpD s
  | .reservedOpE => Sys2Proof.Machine.execReservedOpE s
  | .reservedOpF => Sys2Proof.Machine.execReservedOpF s
  | .frameReqReadHolding id addr qty l h => Sys2Proof.Machine.execFrameReqReadHolding id addr qty l h s
  | .frameReqOtherFunction id fc addr qty l h => Sys2Proof.Machine.execFrameReqOtherFunction id fc addr qty l h s
  | .frameRspNormal id low n data l h => Sys2Proof.Machine.execFrameRspNormal id low n data l h s
  | .frameRspException id low code l h => Sys2Proof.Machine.execFrameRspException id low code l h s

end Sys2Proof.Machine
end

