-- ==== Sys2Proof/Machine/HostPort.lean ====
section
/-! DEFINITION. What the host does besides issuing operations: the writes of 10_state.md R21 and the reset of
70_reset_and_hazards.md R140. -/

namespace Sys2Proof.Machine

/-- One host write (R21): its target and nothing else changes (R24), and the register counts as written (R23). -/
def State.hostWrite (s : State) : HostWrite → Host.Outcome State Fault Refusal
  | .aId v => .next { s with aId := v, written := { s.written with aId := true } }
  | .aFc v => .next { s with aFc := v, written := { s.written with aFc := true } }
  | .aAddr v => .next { s with aAddr := v, written := { s.written with aAddr := true } }
  | .aQty v => .next { s with aQty := v, written := { s.written with aQty := true } }
  | .aExc v => .next { s with aExc := v, written := { s.written with aExc := true } }
  | .aByte v => .next { s with aByte := v, written := { s.written with aByte := true } }
  | .val i v =>
    .next { s with
      val := s.val.setIfInBounds i.val v
      written := { s.written with val := s.written.val.setIfInBounds i.val true } }
  | .valN n => .next { s with valN := n.val }
  | .rxByte i v =>
    if i < Config.bufCap then .next { s with rxBuf := Memory.write s.rxBuf i v } else .fault (.outsideBuffer i)
  | .rxLen n => if n ≤ Config.bufCap then .next { s with rxLen := n } else .fault (.outsideBuffer n)
  | .readOnly r => .refused (.readOnlyWrite r)

/-- Reset (R140): every element takes the value of R22. The host and the transport are not part of the block and go on. A table
has at most 65536 entries (R4). -/
def State.hostReset (s : State) (p : Params) : Host.Outcome State Fault Refusal :=
  if Config.maxTableLen < p.regTabInit.length then .refused (.tableTooLong p.regTabInit.length)
  else .next { State.resetWith p with host := s.host, transport := s.transport }

end Sys2Proof.Machine
end

