-- ==== Sys2Proof/Machine/Step.lean ====
section
/-! DEFINITION. One step of a run (70_reset_and_hazards.md R156): the next step of the host, an operation executing to its end. -/

namespace Sys2Proof.Machine

/-- Execute a command. A received buffer that is no frame of the table still runs as the buffer it is (R152, log 9). -/
def State.runCommand (s : State) : Command → Host.Outcome State Fault Refusal
  | .op code => exec (decodeOp code) s
  | .frame dir bytes =>
    match decodeFrame dir bytes with
    | .ok i => exec i s
    | .error _ => s.receiveFrame dir bytes

/-- One host step (R156). With none to come the block idles: every element keeps its value (R24, log 3). -/
def step (s : State) : Host.Outcome State Fault Refusal :=
  match s.host with
  | [] => .next s
  | .command c :: rest => State.runCommand { s with host := rest } c
  | .write w :: rest => State.hostWrite { s with host := rest } w
  | .read :: rest => .next { s with host := rest }
  | .reset p :: rest => State.hostReset { s with host := rest } p

/-- The command that a word of the table stands for becomes the host's next step (log 3, log 8). -/
def State.withFetchWord (s : State) (nbits w : Nat) : State :=
  { s with host := .command (commandOfTableWord nbits w) :: s.host }

end Sys2Proof.Machine
end

