-- ==== Sys2Proof/Safety.lean ====
section
/-! DEFINITION. What counts as a sound state and a sound step, in the terms the statements use: the invariant of a run, the frame to
send carrying its own CRC, and the operand registers each instruction reads (10_state.md R10, R23; 70_reset_and_hazards.md R141). -/

namespace Sys2Proof.Safety

open Sys2Proof.Machine

/-- The bounds and forms the spec gives the state (R12, R15, R17, R30): what every step keeps. -/
structure Inv (s : State) : Prop where
  rxForm : Memory.wf s.rxBuf = true
  rxBelow : ∀ i, Config.bufCap ≤ i → Memory.read s.rxBuf i = none
  rxLen : s.rxLen ≤ Config.bufCap
  txForm : Memory.wf s.txBuf = true
  txBelow : ∀ i, Config.bufCap ≤ i → Memory.read s.txBuf i = none
  txLen : s.txLen ≤ Config.bufCap
  valN : s.valN ≤ valCap
  tableLen : s.tableLen ≤ Config.maxTableLen

/-- There is nothing to send, or the frame to send is whole and ends in the CRC of its payload (R17, R50, R84). -/
def TxFrameValid (s : State) : Prop := s.txLen = 0 ∨ ∃ P, s.txFrame = .ok (withCrc P)

/-- A set of operand registers, and whether `VAL[0..VALN-1]` is among them. -/
structure OperandSet where
  aId : Bool := false
  aFc : Bool := false
  aAddr : Bool := false
  aQty : Bool := false
  aExc : Bool := false
  aByte : Bool := false
  val : Bool := false
  deriving DecidableEq, Repr

/-- The operand registers an instruction's rule lists (10_state.md, summary table; R10, R12). -/
def operandsOf : Instr → OperandSet
  | .crcByte => { aByte := true }
  | .encReq => { aId := true, aAddr := true, aQty := true }
  | .encExc => { aId := true, aFc := true, aExc := true }
  | .encRsp => { aId := true, aFc := true, val := true }
  | .rtRead => { aAddr := true, aQty := true }
  | .query => { aId := true, aAddr := true, aQty := true }
  | .crcInit => {}
  | .crc16 => {}
  | .decReq => {}
  | .decRsp => {}
  | .respond => {}
  | .reservedOp0 => {}
  | .reservedOpC => {}
  | .reservedOpD => {}
  | .reservedOpE => {}
  | .reservedOpF => {}
  | .frameReqReadHolding _ _ _ _ _ => {}
  | .frameReqOtherFunction _ _ _ _ _ _ => {}
  | .frameRspNormal _ _ _ _ _ _ => {}
  | .frameRspException _ _ _ _ _ => {}

/-- Every register an instruction reads has been written since reset (R23, R141). Where this fails the spec gives the instruction
no result, and the model runs it on the values of log 1. (Buffer bytes need no such test: they fault.) -/
def operandsWritten (i : Instr) (s : State) : Bool :=
  let r := operandsOf i
  (!r.aId || s.written.aId) && (!r.aFc || s.written.aFc) && (!r.aAddr || s.written.aAddr) &&
    (!r.aQty || s.written.aQty) && (!r.aExc || s.written.aExc) && (!r.aByte || s.written.aByte) &&
    (!r.val || (s.written.val.toList.take s.valN).all id)

/-- `s` with every operand register that `r` does not list taken from `j`. -/
def replaceUnlisted (r : OperandSet) (j s : State) : State :=
  { s with
    aId := if r.aId then s.aId else j.aId
    aFc := if r.aFc then s.aFc else j.aFc
    aAddr := if r.aAddr then s.aAddr else j.aAddr
    aQty := if r.aQty then s.aQty else j.aQty
    aExc := if r.aExc then s.aExc else j.aExc
    aByte := if r.aByte then s.aByte else j.aByte }

/-- `s` with every operand register and every `VAL` entry that nothing has written since reset taken from `j`: the values log 1 chose
for them, exchanged for others. -/
def replaceUnwritten (j s : State) : State :=
  { s with
    aId := if s.written.aId then s.aId else j.aId
    aFc := if s.written.aFc then s.aFc else j.aFc
    aAddr := if s.written.aAddr then s.aAddr else j.aAddr
    aQty := if s.written.aQty then s.aQty else j.aQty
    aExc := if s.written.aExc then s.aExc else j.aExc
    aByte := if s.written.aByte then s.aByte else j.aByte
    val := Vector.ofFn fun i => if s.written.val[i] then s.val[i] else j.val[i] }

/-- An outcome with its next state changed; a stop stays as it is. -/
def mapNext (f : State → State) : Host.Outcome State Fault Refusal → Host.Outcome State Fault Refusal
  | .next s => .next (f s)
  | .fault r => .fault r
  | .refused r => .refused r

end Sys2Proof.Safety
end

