-- ==== Sys2Proof/Certificates/Slice0/Obligations.lean ====
section
/-! DEFINITION. The statements about MBCORE, from the numbered rules of spec/. Each says in its docstring which rule it formalises, or
which section it rests on. A frame is stated by record equality: whatever the equation does not name keeps its value (R24). -/

namespace Sys2Proof.Claims

open Sys2Proof.Machine Sys2Proof.Safety

/-- `v[15:8]` as a byte (R8), by arithmetic. -/
def hi (v : Word) : Byte := BitVec.ofNat 8 (v.toNat / 256)

/-- `v[7:0]` as a byte (R8), by arithmetic. -/
def lo (v : Word) : Byte := BitVec.ofNat 8 (v.toNat % 256)

/-- `hi * 256 + lo` (R8), by arithmetic. -/
def num (h l : Byte) : Word := BitVec.ofNat 16 (h.toNat * 256 + l.toNat)

/-- The payload, then its CRC, low byte first (R50, R80). -/
def closed (P : List Byte) : List Byte := P ++ [lo (crc16 P), hi (crc16 P)]

/-- The six payload bytes of a request (R51). -/
def six (id fc : Byte) (addr qty : Word) : List Byte := [id, fc, hi addr, lo addr, hi qty, lo qty]

/-- The payload of a data response (R52): each value high byte first. -/
def dataPayload (id fc : Byte) (vs : List Word) : List Byte :=
  [id, fc, BitVec.ofNat 8 (2 * vs.length)] ++ vs.flatMap fun v => [hi v, lo v]

/-- `RXBUF[0..RXLEN-1]` is `B` (R17). -/
def RxHolds (s : State) (B : List Byte) : Prop :=
  s.rxLen = B.length ∧ ∀ i, i < B.length → Memory.read s.rxBuf i = B[i]?

/-- `TXBUF[0..TXLEN-1]` is `F` (R17). -/
def TxHolds (s : State) (F : List Byte) : Prop :=
  s.txLen = F.length ∧ ∀ i, i < F.length → Memory.read s.txBuf i = F[i]?

/-- Every byte of `TXBUF` at index `TXLEN` and above is as before (R17). -/
def TxKept (s t : State) : Prop := ∀ a, t.txLen ≤ a → Memory.read t.txBuf a = Memory.read s.txBuf a

/-- `B` with bit `k` of byte `i` flipped. -/
def flip (B : List Byte) (i k : Nat) : List Byte := B.set i (byteAt B i ^^^ ((1 : Byte) <<< k))

/-- A bit step of R70 on natural numbers. -/
def natBitSteps : Nat → Nat → Nat
  | 0, c => c
  | k + 1, c => natBitSteps k (if c % 2 = 1 then (c / 2) ^^^ 0xA001 else c / 2)

/-- The registers `REGTAB[a], …, REGTAB[a+n-1]` (R33). -/
def registers (s : State) (a n : Nat) : List Word := (List.range n).map fun i => s.regTab.getD (a + i) 0

/-- `VAL[0..k-1]` is `vs`, `VALN` its length, and the entries above keep their values (R12). -/
def ValuesWritten (s t : State) (vs : List Word) : Prop :=
  t.valN = vs.length ∧ ∀ i (h : i < 127), t.val[i] = if h' : i < vs.length then vs[i] else s.val[i]

/-- A well-formed request `d` stands in `RXBUF` (R51, R91): at least 8 bytes, the six payload bytes, and, where the check is on, their
CRC in bytes 6 and 7. -/
def Arrived (s : State) (d : Request) : Prop :=
  8 ≤ s.rxLen ∧ (∀ i, i < 6 → Memory.read s.rxBuf i = (six d.id d.fc d.addr d.qty)[i]?) ∧
    (s.reqCrcCheck = true →
      Memory.read s.rxBuf 6 = some (lo (crc16 (six d.id d.fc d.addr d.qty))) ∧
      Memory.read s.rxBuf 7 = some (hi (crc16 (six d.id d.fc d.addr d.qty))))

/-- The CRC register after the parse of `d` (R91): written only where the check is on. -/
def crcAfterParse (s : State) (d : Request) : Word :=
  if s.reqCrcCheck then crc16 (six d.id d.fc d.addr d.qty) else s.crc

/-- The state after step 1 of the responder accepted `d` (R105). -/
def accepted (s : State) (d : Request) : State :=
  { s with rId := d.id, rFc := d.fc, rAddr := d.addr, rQty := d.qty, crc := crcAfterParse s d }

/-- The result of `dec_rsp` as R95 writes it: `t` from `s`, whose CRC register holds `c0` where none was computed. -/
def ResponseWritten (s t : State) (c0 : Word) : Response → Prop
  | .malformed c => t = { t with status := .malformed, crc := c.getD c0, rExc := s.rExc, val := s.val, valN := s.valN, written := s.written }
  | .exceptionReceived e c => t = { t with status := .exception, crc := c, rExc := e, val := s.val, valN := s.valN, written := s.written }
  | .values vs c =>
    ValuesWritten s t vs ∧ t = { t with status := .ok, crc := c, rExc := s.rExc, written := { s.written with val := t.written.val } }

/-- The host feeding a byte sequence to the generator (R72, R73): `CRC_INIT`, then `A_BYTE <- b; CRC_BYTE` for each byte. -/
def serialCrc (B : List Byte) : List HostStep :=
  .command (.op 0x1) :: B.flatMap fun b => [.write (.aByte b), .command (.op 0x2)]

/-- The host driving the transport itself (R113): `ENC_REQ`, the answer `rx` written into `RXBUF` and `RXLEN`, `DEC_RSP`. -/
def queryByParts (rx : List Byte) : List HostStep :=
  .command (.op 0x4) :: ((List.range rx.length).map fun i => HostStep.write (.rxByte i (byteAt rx i))) ++
    [.write (.rxLen rx.length), .command (.op 0x8)]

/-- `RXBUF[0..7]` is a request whose CRC bytes are not the CRC of its first six (R90, R91). -/
def CrcWrong (s : State) : Prop :=
  ∃ B : List Byte, B.length = 8 ∧ (∀ i, i < 8 → Memory.read s.rxBuf i = B[i]?) ∧
    ¬ (byteAt B 6 = lo (crc16 (B.take 6)) ∧ byteAt B 7 = hi (crc16 (B.take 6)))

/-- The receive buffer is a malformed request (R101): too short, or, where the check is on, with a wrong CRC. -/
def RequestMalformed (s : State) : Prop := s.rxLen < 8 ∨ (8 ≤ s.rxLen ∧ s.reqCrcCheck = true ∧ CrcWrong s)

/-- Bytes of `RXBUF` from index `n` on are as before (R17). -/
def RxKeptFrom (n : Nat) (s t : State) : Prop := ∀ a, n ≤ a → Memory.read t.rxBuf a = Memory.read s.rxBuf a

/-- A read of `qty` registers at `addr` that is in range but more than a frame can carry (R107 b), and its refusal. -/
def ReadRefused (s : State) (addr qty : Word) (r : Refusal) : Prop :=
  addr.toNat + qty.toNat ≤ s.regTab.length ∧ 127 < qty.toNat ∧ r = .quantityAboveCapacity qty.toNat

/-- The request in a frame is for this slave, for holding registers, and (where the check is on) closed by its CRC (R101, R102). -/
def FrameServed (s : State) (id fc : Byte) (addr qty : Word) (l h : Byte) : Prop :=
  id = s.slaveId ∧ fc = 0x03 ∧
    (s.reqCrcCheck = true → l = lo (crc16 (six id fc addr qty)) ∧ h = hi (crc16 (six id fc addr qty)))

/-- Where each instruction is refused, and as what (93_implementation_defined.md U8, U10, U13; the frame rows by log 7). -/
def RefusedCase (s : State) (r : Refusal) : Instr → Prop
  | .crcInit => False
  | .crcByte => False
  | .crc16 => False
  | .encReq => False
  | .encExc => False
  | .encRsp => 127 < s.valN ∧ r = .quantityAboveCapacity s.valN
  | .decReq => False
  | .decRsp => False
  | .rtRead => ReadRefused s s.aAddr s.aQty r
  | .respond => ∃ d : Request, Arrived s d ∧ d.id = s.slaveId ∧ d.fc = 0x03 ∧ ReadRefused s d.addr d.qty r
  | .query => Config.bufCap < s.transport.nextAnswer.length ∧ r = .bufferOverrun s.transport.nextAnswer.length
  | .reservedOp0 => r = .reservedOp 0x0
  | .reservedOpC => r = .reservedOp 0xC
  | .reservedOpD => r = .reservedOp 0xD
  | .reservedOpE => r = .reservedOp 0xE
  | .reservedOpF => r = .reservedOp 0xF
  | .frameReqReadHolding id addr qty l h => FrameServed s id 0x03 addr qty l h ∧ ReadRefused s addr qty r
  | .frameReqOtherFunction id fc addr qty l h => FrameServed s id fc addr qty l h ∧ ReadRefused s addr qty r
  | .frameRspNormal _ _ _ data _ _ => Config.bufCap < 5 + data.length ∧ r = .bufferOverrun (5 + data.length)
  | .frameRspException _ _ _ _ _ => False

/-- Exchanging something of the state for something else (`f`) changes the outcome of `i` on `s` in more than that exchange. -/
def Shows (i : Instr) (f : State → State) (s : State) : Prop := exec i (f s) ≠ mapNext f (exec i s)

/-- `u` is `s` with other values in the result registers and the value file (R11, R12). -/
def SameButResults (s u : State) : Prop :=
  u = { s with rId := u.rId, rFc := u.rFc, rAddr := u.rAddr, rQty := u.rQty, rExc := u.rExc, val := u.val }

/-- An element that held `x` in one run and `x'` in another now holds `y` and `y'`: written alike in both, or kept in both. -/
def WrittenAlike {α : Type} (x x' y y' : α) : Prop := y' = y ∨ (y = x ∧ y' = x')

/-- Every result register and VAL entry is written alike in both runs, or kept in both. -/
def ResultsAlike (s u t t' : State) : Prop :=
  WrittenAlike s.rId u.rId t.rId t'.rId ∧ WrittenAlike s.rFc u.rFc t.rFc t'.rFc ∧ WrittenAlike s.rAddr u.rAddr t.rAddr t'.rAddr ∧
    WrittenAlike s.rQty u.rQty t.rQty t'.rQty ∧ WrittenAlike s.rExc u.rExc t.rExc t'.rExc ∧
    ∀ k (h : k < 127), WrittenAlike s.val[k] u.val[k] t.val[k] t'.val[k]

/-- Where two states agree in everything `RESPOND` reads (R105). -/
def SameRequestInput (s s' : State) : Prop :=
  s'.rxBuf = s.rxBuf ∧ s'.rxLen = s.rxLen ∧ s'.slaveId = s.slaveId ∧ s'.reqCrcCheck = s.reqCrcCheck ∧ s'.regTab = s.regTab

/-- The outcomes each instruction can write to `STATUS` (R14, R122). -/
def outcomesOf : Instr → List Status
  | .crcInit => [.ok]
  | .crcByte => [.ok]
  | .crc16 => [.ok]
  | .encReq => [.ok]
  | .encExc => [.ok]
  | .encRsp => [.ok]
  | .decReq => [.ok, .malformed]
  | .decRsp => [.ok, .exception, .malformed]
  | .rtRead => [.ok, .outOfRange]
  | .respond => [.ok, .exception, .malformed, .notAddressed]
  | .query => [.ok, .exception, .malformed, .timeout]
  | .reservedOp0 => []
  | .reservedOpC => []
  | .reservedOpD => []
  | .reservedOpE => []
  | .reservedOpF => []
  | .frameReqReadHolding _ _ _ _ _ => [.ok, .exception, .malformed, .notAddressed]
  | .frameReqOtherFunction _ _ _ _ _ _ => [.ok, .exception, .malformed, .notAddressed]
  | .frameRspNormal _ _ _ _ _ _ => [.ok, .exception, .malformed]
  | .frameRspException _ _ _ _ _ => [.ok, .exception, .malformed]

end Sys2Proof.Claims

open Sys2Proof Sys2Proof.Machine Sys2Proof.Safety Sys2Proof.Claims

/-! ### Encoding -/

/-- Decode and encode agree on every well-formed instruction, with every operand at every value (30_encoding.md R51 to R53, R60, R61). -/
def Obligations.DecodeOfEncodeIsTheInstruction : Prop :=
  ∀ i : Instr, i.wellFormed = true → decode (encode i) = .ok i

/-- Every command the decoder accepts is the encoding of the well-formed instruction it answers: each command has one meaning
(30_encoding.md sections 1, 3 and 5). -/
def Obligations.DecodedCommandIsItsEncoding : Prop :=
  ∀ (c : Command) (i : Instr), decode c = .ok i → encode i = c ∧ i.wellFormed = true

/-- The eleven codes of R60, three of the five reserved codes of R61 (0x0, 0xC, 0xF), and one buffer of each frame kind (the frames of V10,
V38, V78 and V16; that V38's byte 1 makes it the other-function row is R56) decode to what they stand for. -/
def Obligations.WrittenOutWordsDecode : Prop :=
  decode (.op 0x1) = .ok .crcInit ∧ decode (.op 0x2) = .ok .crcByte ∧ decode (.op 0x3) = .ok .crc16 ∧
  decode (.op 0x4) = .ok .encReq ∧ decode (.op 0x5) = .ok .encExc ∧ decode (.op 0x6) = .ok .encRsp ∧
  decode (.op 0x7) = .ok .decReq ∧ decode (.op 0x8) = .ok .decRsp ∧ decode (.op 0x9) = .ok .rtRead ∧
  decode (.op 0xA) = .ok .respond ∧ decode (.op 0xB) = .ok .query ∧ decode (.op 0x0) = .ok .reservedOp0 ∧
  decode (.op 0xC) = .ok .reservedOpC ∧ decode (.op 0xF) = .ok .reservedOpF ∧
  decode (.frame .request [0x01, 0x03, 0x00, 0x01, 0x00, 0x03, 0x54, 0x0B]) = .ok (.frameReqReadHolding 1 1 3 0x54 0x0B) ∧
  decode (.frame .request [0x01, 0x06, 0x00, 0x01, 0x00, 0x03, 0x98, 0x0B]) = .ok (.frameReqOtherFunction 1 6 1 3 0x98 0x0B) ∧
  decode (.frame .response [0x01, 0x03, 0x02, 0x00, 0x05, 0x78, 0x47]) = .ok (.frameRspNormal 1 3 2 [0x00, 0x05] 0x78 0x47) ∧
  decode (.frame .response [0x01, 0x83, 0x02, 0xC0, 0xF1]) = .ok (.frameRspException 1 3 2 0xC0 0xF1)

/-! ### The run (70_reset_and_hazards.md R156) -/

/-- A step whose host step is a command runs the instruction the command decodes to, on the state with that host step taken: the run of R156.
That the host's steps are a list in the state and that an empty list idles is the model's choice (log 3, DESIGN CHOICE). That a buffer is
received in one step (log 7, DESIGN CHOICE), and that one which is no frame of the table is received as the buffer it is (log 9, DEDUCED), are
the model's too. -/
def Obligations.StepRunsTheDecodedInstruction : Prop :=
  (∀ (s : State) (c : Command) (rest : List HostStep) (i : Instr), s.host = .command c :: rest → decode c = .ok i →
    step s = exec i { s with host := rest }) ∧
  (∀ s : State, s.host = [] → step s = .next s) ∧
  (∀ (s : State) (dir : Direction) (B : List Byte) (rest : List HostStep) (e : DecodeError),
    s.host = .command (.frame dir B) :: rest → decode (.frame dir B) = .error e →
    step s = State.receiveFrame { s with host := rest } dir B)

/-- R61: the reserved codes are refused, as instructions and when the host issues them. -/
def Obligations.ReservedCodesAreRefused : Prop :=
  (∀ s : State, exec .reservedOp0 s = .refused (.reservedOp 0x0) ∧ exec .reservedOpC s = .refused (.reservedOp 0xC) ∧
    exec .reservedOpD s = .refused (.reservedOp 0xD) ∧ exec .reservedOpE s = .refused (.reservedOp 0xE) ∧
    exec .reservedOpF s = .refused (.reservedOp 0xF)) ∧
  (∀ (s : State) (code : BitVec 4) (rest : List HostStep), s.host = .command (.op code) :: rest →
    code ∈ ([0x0, 0xC, 0xD, 0xE, 0xF] : List (BitVec 4)) → step s = .refused (.reservedOp code))

/-- R22: what reset leaves where the spec gives a value, for every choice of the parameters. A reset is a host step (R140);
`State.reset` is the state after the reset of this instantiation. -/
def Obligations.ResetLeavesTheValuesOfTheSpec : Prop :=
  (∀ (s : State) (p : Params) (rest : List HostStep), s.host = .reset p :: rest → p.regTabInit.length ≤ 65536 →
    ∃ t, step s = .next t ∧ t.regTab = p.regTabInit ∧ t.tableLen = p.regTabInit.length ∧ t.slaveId = p.slaveId ∧
      t.reqCrcCheck = p.reqCrcCheck ∧ t.crc = 0xFFFF ∧ t.status = .ok ∧ t.status.code = 0 ∧ t.rxLen = 0 ∧ t.txLen = 0 ∧ t.valN = 0) ∧
  (State.reset.regTab = Config.regTabInit ∧ State.reset.slaveId = Config.slaveId ∧ State.reset.reqCrcCheck = Config.reqCrcCheck ∧
    State.reset.crc = 0xFFFF ∧ State.reset.status = .ok ∧ State.reset.rxLen = 0 ∧ State.reset.txLen = 0 ∧ State.reset.valN = 0)

/-- 10_state.md section 10 (R21): what the host may write, each write changing its target alone, and what it may not, whatever the value. The
clauses that a write outside the buffer stops, and stops as a fault, are the model's choice (log 14, DEDUCED; log 20, DESIGN CHOICE): R21 only
says that no such value is written. That a write is noted in `written` is the model's own bookkeeping (log 1). -/
def Obligations.HostWritesChangeTheirTargetAlone : Prop :=
  ∀ (s : State) (w : HostWrite) (rest : List HostStep), s.host = .write w :: rest →
    match w with
    | .aId v => ∃ t, step s = .next t ∧ t = { s with host := rest, aId := v, written := { s.written with aId := true } }
    | .aFc v => ∃ t, step s = .next t ∧ t = { s with host := rest, aFc := v, written := { s.written with aFc := true } }
    | .aAddr v => ∃ t, step s = .next t ∧ t = { s with host := rest, aAddr := v, written := { s.written with aAddr := true } }
    | .aQty v => ∃ t, step s = .next t ∧ t = { s with host := rest, aQty := v, written := { s.written with aQty := true } }
    | .aExc v => ∃ t, step s = .next t ∧ t = { s with host := rest, aExc := v, written := { s.written with aExc := true } }
    | .aByte v => ∃ t, step s = .next t ∧ t = { s with host := rest, aByte := v, written := { s.written with aByte := true } }
    | .val i v => ∃ t, step s = .next t ∧
        t = { s with host := rest, val := t.val, written := { s.written with val := t.written.val } } ∧
        ∀ k (h : k < 127), t.val[k] = (if k = i.val then v else s.val[k]) ∧
          t.written.val[k] = (if k = i.val then true else s.written.val[k])
    | .valN n => ∃ t, step s = .next t ∧ t = { s with host := rest, valN := n.val }
    | .rxByte i v =>
        (i < Config.bufCap → ∃ t, step s = .next t ∧ t = { s with host := rest, rxBuf := t.rxBuf } ∧
          ∀ a, Memory.read t.rxBuf a = if a = i then some v else Memory.read s.rxBuf a) ∧
        (Config.bufCap ≤ i → step s = .fault (.outsideBuffer i))
    | .rxLen n =>
        (n ≤ Config.bufCap → ∃ t, step s = .next t ∧ t = { s with host := rest, rxLen := n }) ∧
        (Config.bufCap < n → step s = .fault (.outsideBuffer n))
    | .readOnly r => step s = .refused (.readOnlyWrite r)

/-- A frame buffer keeps what is written (R17, R24): a read of the written byte gives it, every other byte reads as before, and the
canonical form is kept. -/
def Obligations.BufferReadsWhatWasWritten : Prop :=
  ∀ (m : Memory) (i : Nat) (F : List Byte),
    (∀ j, Memory.read (Memory.writeBytes m i F) j = if i ≤ j ∧ j < i + F.length then F[j - i]? else Memory.read m j) ∧
    (Memory.wf m = true → Memory.wf (Memory.writeBytes m i F) = true)

/-! ### The CRC generator -/

/-- R72. -/
def Obligations.CrcInitLoadsTheInitialValue : Prop :=
  decode (.op 0x1) = .ok .crcInit ∧ ∀ s : State, exec .crcInit s = .next { s with crc := 0xFFFF, status := .ok }

/-- `CRC_BYTE` (40_crc.md sections 2 and 3) by the loop of R70 on natural numbers: exclusive-or the byte in, then eight times halve, and
exclusive-or 0xA001 where the number was odd. The spec marks the loop as general knowledge (log 10). -/
def Obligations.CrcByteFollowsTheBitLoop : Prop :=
  ∀ s : State, ∃ t, exec .crcByte s = .next t ∧ t = { s with crc := t.crc, status := .ok } ∧
    t.crc.toNat = natBitSteps 8 (s.crc.toNat ^^^ s.aByte.toNat)

/-- R74: the CRC of the receive buffer from 0xFFFF in index order, whatever the bytes mean; 0xFFFF for an empty buffer; and the value
`CRC_INIT` followed by `CRC_BYTE` for each byte leaves. -/
def Obligations.Crc16IsTheSerialCrcOfTheBuffer : Prop :=
  decode (.op 0x3) = .ok .crc16 ∧
  (∀ (s : State) (B : List Byte), RxHolds s B →
    exec .crc16 s = .next { s with crc := B.foldl crcByte 0xFFFF, status := .ok }) ∧
  (∀ s : State, s.rxLen = 0 → exec .crc16 s = .next { s with crc := 0xFFFF, status := .ok }) ∧
  (∀ (s t u : State) (B : List Byte), RxHolds s B → exec .crc16 s = .next t → u.host = serialCrc B →
    ∃ v, core.run (1 + 2 * B.length) u = .next v ∧ v.crc = t.crc)

/-- The residue law (40_crc.md section 4, R76 b): a payload closed by its CRC has CRC zero. -/
def Obligations.ClosedFrameHasZeroResidue : Prop := ∀ P : List Byte, crc16 (closed P) = 0

/-- 40_crc.md section 4 (R76 c): for a fixed byte the byte step is a bijection of the register values. -/
def Obligations.CrcByteIsABijection : Prop := ∀ b : Byte, Function.Bijective fun c : Word => crcByte c b

/-- 40_crc.md section 4 (R76 d): every value is the CRC of some two bytes. -/
def Obligations.EveryWordIsACrc : Prop := ∀ w : Word, ∃ a b : Byte, crc16 [a, b] = w

/-- 40_crc.md section 4 (R77): a single flipped bit changes the CRC. -/
def Obligations.SingleBitFlipChangesTheCrc : Prop :=
  ∀ (B : List Byte) (i k : Nat), i < B.length → k < 8 → crc16 (flip B i k) ≠ crc16 B

/-! ### The encoder -/

/-- R81: the request frame, for every operand value; `A_FC` is not read. -/
def Obligations.EncReqBuildsTheRequestFrame : Prop :=
  decode (.op 0x4) = .ok .encReq ∧
  ∀ s : State, ∃ t, exec .encReq s = .next t ∧ TxHolds t (closed (six s.aId 0x03 s.aAddr s.aQty)) ∧ TxKept s t ∧
    t = { s with txBuf := t.txBuf, txLen := 8, crc := crc16 (six s.aId 0x03 s.aAddr s.aQty), status := .ok }

/-- R82: the exception frame; bit 7 of byte 1 is set, any code is serialised. -/
def Obligations.EncExcBuildsTheExceptionFrame : Prop :=
  decode (.op 0x5) = .ok .encExc ∧
  ∀ s : State, ∃ t, exec .encExc s = .next t ∧ TxHolds t (closed [s.aId, s.aFc ||| 0x80, s.aExc]) ∧ TxKept s t ∧
    t = { s with txBuf := t.txBuf, txLen := 5, crc := crc16 [s.aId, s.aFc ||| 0x80, s.aExc], status := .ok }

/-- R83: the data frame for up to 127 values, each high byte first, `2*VALN` in byte 2; above 127 values the rule refuses. -/
def Obligations.EncRspBuildsTheDataFrame : Prop :=
  decode (.op 0x6) = .ok .encRsp ∧
  (∀ s : State, s.valN ≤ 127 → ∃ t, exec .encRsp s = .next t ∧
    TxHolds t (closed (dataPayload s.aId s.aFc (s.val.toList.take s.valN))) ∧ TxKept s t ∧
    t = { s with txBuf := t.txBuf, txLen := 5 + 2 * s.valN, crc := crc16 (dataPayload s.aId s.aFc (s.val.toList.take s.valN)),
                 status := .ok }) ∧
  (∀ s : State, 127 < s.valN → exec .encRsp s = .refused (.quantityAboveCapacity s.valN))

/-- 41_encode.md section 3 (R84): every frame an encoder leaves in `TXBUF` passes the CRC test and has CRC zero as a whole. -/
def Obligations.EncodersPassTheCrcTest : Prop :=
  ∀ (i : Instr) (s : State), i = .encReq ∨ i = .encExc ∨ (i = .encRsp ∧ s.valN ≤ 127) →
    ∃ t F, exec i s = .next t ∧ TxHolds t F ∧ 5 ≤ F.length ∧ crcOk F (F.length - 2) = true ∧ crc16 F = 0

/-! ### The decoder -/

/-- R91: the parse of a request. Fewer than 8 bytes; the check off (bytes 6 and 7 are not read, CRC is not written); the check on and
the CRC right; the check on and the CRC wrong. No field is judged and bytes from the eighth on are ignored. -/
def Obligations.DecReqParsesTheRequest : Prop :=
  decode (.op 0x7) = .ok .decReq ∧
  (∀ s : State, s.rxLen < 8 → exec .decReq s = .next { s with status := .malformed }) ∧
  (∀ (s : State) (b0 b1 b2 b3 b4 b5 : Byte), 8 ≤ s.rxLen →
    (∀ i, i < 6 → Memory.read s.rxBuf i = [b0, b1, b2, b3, b4, b5][i]?) →
    (s.reqCrcCheck = false →
      exec .decReq s = .next { s with rId := b0, rFc := b1, rAddr := num b2 b3, rQty := num b4 b5, status := .ok }) ∧
    (∀ b6 b7 : Byte, s.reqCrcCheck = true → Memory.read s.rxBuf 6 = some b6 → Memory.read s.rxBuf 7 = some b7 →
      let c := crc16 [b0, b1, b2, b3, b4, b5]
      (b6 = lo c ∧ b7 = hi c →
        exec .decReq s = .next { s with rId := b0, rFc := b1, rAddr := num b2 b3, rQty := num b4 b5, crc := c, status := .ok }) ∧
      (¬ (b6 = lo c ∧ b7 = hi c) → exec .decReq s = .next { s with crc := c, status := .malformed })))

/-- R92, R93 and R94: `dec_rsp` by its five steps, the first that applies deciding. -/
def Obligations.DecRspFollowsItsFiveSteps : Prop :=
  ∀ B : List Byte,
    let c := crc16 (B.take (B.length - 2))
    let short := (byteAt B 1).msb = false ∧ B.length < 5 + (byteAt B 2).toNat
    let bad := byteAt B (B.length - 2) ≠ lo c ∨ byteAt B (B.length - 1) ≠ hi c
    (B.length < 5 → decRsp B = .malformed none) ∧
    (5 ≤ B.length → short → decRsp B = .malformed none) ∧
    (5 ≤ B.length → ¬ short → bad → decRsp B = .malformed (some c)) ∧
    (5 ≤ B.length → ¬ short → ¬ bad → (byteAt B 1).msb = true → decRsp B = .exceptionReceived (byteAt B 2) c) ∧
    (5 ≤ B.length → ¬ short → ¬ bad → (byteAt B 1).msb = false →
      ∃ vs, decRsp B = .values vs c ∧ vs.length = (byteAt B 2).toNat / 2 ∧ vs.length ≤ 127 ∧
        ∀ i, i < vs.length → vs[i]? = some (num (byteAt B (3 + 2 * i)) (byteAt B (4 + 2 * i))))

/-- R95: `DEC_RSP` writes what `dec_rsp` of the receive buffer says; a buffer of fewer than 5 bytes is malformed without being read. -/
def Obligations.DecRspWritesTheResult : Prop :=
  decode (.op 0x8) = .ok .decRsp ∧
  (∀ s : State, s.rxLen < 5 → exec .decRsp s = .next { s with status := .malformed }) ∧
  (∀ (s : State) (B : List Byte), RxHolds s B →
    ∃ t, exec .decRsp s = .next t ∧ ResponseWritten s t s.crc (decRsp B) ∧
      t = { s with val := t.val, valN := t.valN, rExc := t.rExc, crc := t.crc, status := t.status,
                   written := { s.written with val := t.written.val } })

/-- 42_decode.md section 4 (R97): `dec_rsp` of a data frame gives its values back, and of an exception frame its code. -/
def Obligations.DecRspInvertsTheEncoders : Prop :=
  (∀ (id fc : Byte) (vs : List Word), fc.msb = false → vs.length ≤ 127 →
    decRsp (closed (dataPayload id fc vs)) = .values vs (crc16 (dataPayload id fc vs))) ∧
  (∀ id fc code : Byte,
    decRsp (closed [id, fc ||| 0x80, code]) = .exceptionReceived code (crc16 [id, fc ||| 0x80, code]))

/-- 42_decode.md section 4 (R98): a response that decodes, with one payload bit flipped and its last two bytes kept, is malformed. -/
def Obligations.CorruptedResponseIsMalformed : Prop :=
  ∀ (F : List Byte) (i k : Nat), (∀ c, decRsp F ≠ .malformed c) → i < F.length - 2 → k < 8 →
    ∃ c, decRsp (flip F i k) = .malformed c

/-- 42_decode.md section 4 (R98): with the check on, a request whose CRC was right and whose payload has one flipped bit is dropped: `DEC_REQ`
keeps its result registers, `RESPOND` sends nothing. With the check off `DEC_REQ` accepts it. -/
def Obligations.CorruptedRequestIsDropped : Prop :=
  ∀ (s : State) (B : List Byte) (i k : Nat), 8 ≤ B.length → crcOk B 6 = true → i < 6 → k < 8 → RxHolds s (flip B i k) →
    (s.reqCrcCheck = true →
      exec .decReq s = .next { s with crc := crc16 ((flip B i k).take 6), status := .malformed } ∧
      exec .respond s = .next { s with crc := crc16 ((flip B i k).take 6), txLen := 0, status := .malformed }) ∧
    (s.reqCrcCheck = false → ∃ t, exec .decReq s = .next t ∧ t.status = .ok)

/-! ### The Register Table and the responder -/

/-- R100: the bounds-checked range read. The sum is over the naturals; in range and up to 127 registers `VAL` receives them; in range and
above 127 the rule refuses. -/
def Obligations.RtReadChecksTheRange : Prop :=
  decode (.op 0x9) = .ok .rtRead ∧
  (∀ s : State, s.regTab.length < s.aAddr.toNat + s.aQty.toNat → exec .rtRead s = .next { s with status := .outOfRange }) ∧
  (∀ s : State, s.aAddr.toNat + s.aQty.toNat ≤ s.regTab.length → s.aQty.toNat ≤ 127 →
    ∃ t, exec .rtRead s = .next t ∧ ValuesWritten s t (registers s s.aAddr.toNat s.aQty.toNat) ∧
      t = { s with val := t.val, valN := s.aQty.toNat, status := .ok, written := { s.written with val := t.written.val } }) ∧
  (∀ s : State, s.aAddr.toNat + s.aQty.toNat ≤ s.regTab.length → 127 < s.aQty.toNat →
    exec .rtRead s = .refused (.quantityAboveCapacity s.aQty.toNat))

/-- R101: silence. A request of fewer than 8 bytes, one whose CRC fails where the check is on, and one for another slave leave nothing to
send; the first two keep the result registers, the third leaves the foreign request's fields there. -/
def Obligations.RespondIsSilentWhenNotMeant : Prop :=
  (∀ s : State, s.rxLen < 8 → exec .respond s = .next { s with txLen := 0, status := .malformed }) ∧
  (∀ (s : State) (B : List Byte), 8 ≤ B.length → RxHolds s B → s.reqCrcCheck = true →
    ¬ (byteAt B 6 = lo (crc16 (B.take 6)) ∧ byteAt B 7 = hi (crc16 (B.take 6))) →
    exec .respond s = .next { s with txLen := 0, crc := crc16 (B.take 6), status := .malformed }) ∧
  (∀ (s : State) (d : Request), Arrived s d → d.id ≠ s.slaveId →
    exec .respond s = .next { accepted s d with txLen := 0, status := .notAddressed })

/-- R102: any function code but 0x03, whatever the address and the quantity, is answered with exception 1 and the code with bit 7 set. -/
def Obligations.RespondAnswersIllegalFunction : Prop :=
  ∀ (s : State) (d : Request), Arrived s d → d.id = s.slaveId → d.fc ≠ 0x03 →
    ∃ t, exec .respond s = .next t ∧ TxHolds t (closed [d.id, d.fc ||| 0x80, 0x01]) ∧ TxKept s t ∧
      t = { accepted s d with rExc := 1, txBuf := t.txBuf, txLen := 5, crc := crc16 [d.id, d.fc ||| 0x80, 0x01],
                              status := .exception }

/-- R103: a range past the table is answered with exception 2; the sum does not wrap, and a sum equal to the table length passes. -/
def Obligations.RespondAnswersIllegalDataAddress : Prop :=
  ∀ (s : State) (d : Request), Arrived s d → d.id = s.slaveId → d.fc = 0x03 →
    (s.regTab.length < d.addr.toNat + d.qty.toNat →
      ∃ t, exec .respond s = .next t ∧ TxHolds t (closed [d.id, 0x83, 0x02]) ∧ TxKept s t ∧
        t = { accepted s d with rExc := 2, txBuf := t.txBuf, txLen := 5, crc := crc16 [d.id, 0x83, 0x02], status := .exception }) ∧
    (d.addr.toNat + d.qty.toNat = s.regTab.length → d.qty.toNat ≤ 127 → ∃ t, exec .respond s = .next t ∧ t.status = .ok)

/-- R104: an in-range read of up to 127 registers is answered with their values; `VAL` and `VALN` hold them too (R105). -/
def Obligations.RespondServesTheRegisters : Prop :=
  ∀ (s : State) (d : Request), Arrived s d → d.id = s.slaveId → d.fc = 0x03 → d.addr.toNat + d.qty.toNat ≤ s.regTab.length →
    d.qty.toNat ≤ 127 →
    ∃ t, exec .respond s = .next t ∧
      TxHolds t (closed (dataPayload d.id 0x03 (registers s d.addr.toNat d.qty.toNat))) ∧ TxKept s t ∧
      ValuesWritten s t (registers s d.addr.toNat d.qty.toNat) ∧
      t = { accepted s d with val := t.val, valN := d.qty.toNat, written := { s.written with val := t.written.val },
                              txBuf := t.txBuf, txLen := 5 + 2 * d.qty.toNat,
                              crc := crc16 (dataPayload d.id 0x03 (registers s d.addr.toNat d.qty.toNat)), status := .ok }

/-- 43_responder.md section 4 (R107 b): an in-range read of more than 127 registers is refused, neither truncated, answered with an exception nor
left silent. -/
def Obligations.RespondRefusesMoreThan127Registers : Prop :=
  ∀ (s : State) (d : Request), Arrived s d → d.id = s.slaveId → d.fc = 0x03 → d.addr.toNat + d.qty.toNat ≤ s.regTab.length →
    127 < d.qty.toNat → exec .respond s = .refused (.quantityAboveCapacity d.qty.toNat)

/-- 43_responder.md section 3 (R106): whatever the buffer holds, one row of the multiplexer's table applies: its condition, status, length to
send, the frame in `TXBUF` and the exception code go together; what the rows leave is as before. -/
def Obligations.MultiplexerSelectsOneRow : Prop :=
  ∀ s t : State, exec .respond s = .next t →
    let d : Request := { id := t.rId, fc := t.rFc, addr := t.rAddr, qty := t.rQty }
    (RequestMalformed s ∧ t = { s with txLen := 0, crc := t.crc, status := .malformed }) ∨
    (Arrived s d ∧ d.id ≠ s.slaveId ∧ t = { accepted s d with txLen := 0, status := .notAddressed }) ∨
    (Arrived s d ∧ d.id = s.slaveId ∧ d.fc ≠ 0x03 ∧ TxHolds t (closed [d.id, d.fc ||| 0x80, 0x01]) ∧ TxKept s t ∧
      t = { accepted s d with rExc := 1, txBuf := t.txBuf, txLen := 5, crc := crc16 [d.id, d.fc ||| 0x80, 0x01],
                              status := .exception }) ∨
    (Arrived s d ∧ d.id = s.slaveId ∧ d.fc = 0x03 ∧ s.regTab.length < d.addr.toNat + d.qty.toNat ∧
      TxHolds t (closed [d.id, 0x83, 0x02]) ∧ TxKept s t ∧
      t = { accepted s d with rExc := 2, txBuf := t.txBuf, txLen := 5, crc := crc16 [d.id, 0x83, 0x02], status := .exception }) ∨
    (Arrived s d ∧ d.id = s.slaveId ∧ d.fc = 0x03 ∧ d.addr.toNat + d.qty.toNat ≤ s.regTab.length ∧ d.qty.toNat ≤ 127 ∧
      TxHolds t (closed (dataPayload d.id 0x03 (registers s d.addr.toNat d.qty.toNat))) ∧ TxKept s t ∧
      ValuesWritten s t (registers s d.addr.toNat d.qty.toNat) ∧
      t = { accepted s d with val := t.val, valN := t.valN, written := { s.written with val := t.written.val }, txBuf := t.txBuf,
                              txLen := 5 + 2 * d.qty.toNat,
                              crc := crc16 (dataPayload d.id 0x03 (registers s d.addr.toNat d.qty.toNat)), status := .ok })

/-- 30_encoding.md section 6 (R63): `RESPOND` is `DEC_REQ`, the checks, then `RT_READ` and `ENC_RSP` or `ENC_EXC` with the decoded fields
copied into the `A_` registers, which `RESPOND` leaves alone. Said of the requests `DEC_REQ` accepts for this slave and whose parts complete:
malformed and foreign requests are in RespondIsSilentWhenNotMeant, refused ones in RespondRefusesMoreThan127Registers. -/
def Obligations.RespondIsTheCompositionOfItsParts : Prop :=
  ∀ s t1 : State, exec .decReq s = .next t1 → t1.status = .ok → t1.rId = s.slaveId →
    let restore := fun t : State => { t with aId := s.aId, aFc := s.aFc, aAddr := s.aAddr, aQty := s.aQty, aExc := s.aExc }
    (t1.rFc ≠ 0x03 →
      ∃ t3, exec .encExc { t1 with aId := t1.rId, aFc := t1.rFc, aExc := 1 } = .next t3 ∧
        exec .respond s = .next { restore t3 with rExc := 1, status := .exception }) ∧
    (t1.rFc = 0x03 → ∀ t2, exec .rtRead { t1 with aAddr := t1.rAddr, aQty := t1.rQty } = .next t2 →
      (t2.status = .outOfRange →
        ∃ t3, exec .encExc { t2 with aId := t1.rId, aFc := t1.rFc, aExc := 2 } = .next t3 ∧
          exec .respond s = .next { restore t3 with rExc := 2, status := .exception }) ∧
      (t2.status = .ok →
        ∃ t3, exec .encRsp { t2 with aId := t1.rId, aFc := t1.rFc } = .next t3 ∧ exec .respond s = .next (restore t3)))

/-- 10_state.md section 9 (R19) and 43_responder.md section 2: `RESPOND` holds no memory of earlier requests. Two states that agree on the
receive buffer, the configuration and the table give the same outcome, the same response frame and the same decoded fields. (`R_EXC`, `VAL`
and `CRC`, which some outcomes keep, are not compared here.) -/
def Obligations.RespondRemembersNothing : Prop :=
  ∀ s s' : State, SameRequestInput s s' →
    (∀ t, exec .respond s = .next t → ∃ t', exec .respond s' = .next t' ∧ t'.status = t.status ∧ t'.txLen = t.txLen ∧
      (∀ i, i < t.txLen → Memory.read t'.txBuf i = Memory.read t.txBuf i) ∧
      (t.status ≠ .malformed → t'.rId = t.rId ∧ t'.rFc = t.rFc ∧ t'.rAddr = t.rAddr ∧ t'.rQty = t.rQty)) ∧
    (∀ f, exec .respond s = .fault f → exec .respond s' = .fault f) ∧
    (∀ r, exec .respond s = .refused r → exec .respond s' = .refused r)

/-! ### The master -/

/-- R112: one request, one send, one receive, and the classification of the answer, for any answer of at most `BUFCAP` bytes. `TIMEOUT` exactly
when there is none; otherwise as `DEC_RSP`. -/
def Obligations.QueryClassifiesTheAnswer : Prop :=
  decode (.op 0xB) = .ok .query ∧
  ∀ (s : State) (rx : List Byte) (rest : List (List Byte)), s.transport.answers = rx :: rest → rx.length ≤ Config.bufCap →
    let P := six s.aId 0x03 s.aAddr s.aQty
    ∃ t, exec .query s = .next t ∧ TxHolds t (closed P) ∧ TxKept s t ∧ RxHolds t rx ∧
      (∀ a, rx.length ≤ a → Memory.read t.rxBuf a = Memory.read s.rxBuf a) ∧
      t.transport = { answers := rest, taken := s.transport.taken, trace := s.transport.trace ++ [.send (closed P), .receive rx] } ∧
      t = { s with txBuf := t.txBuf, txLen := 8, rxBuf := t.rxBuf, rxLen := t.rxLen, transport := t.transport, crc := t.crc,
                   status := t.status, rExc := t.rExc, val := t.val, valN := t.valN,
                   written := { s.written with val := t.written.val } } ∧
      (rx = [] → t = { t with status := .timeout, crc := crc16 P, rExc := s.rExc, val := s.val, valN := s.valN, written := s.written }) ∧
      (rx ≠ [] → ResponseWritten s t (crc16 P) (decRsp rx))

/-- 44_master.md section 1 (R111): past the end of the answers the host placed, `receive` still returns, with a free value of at most
`BUFCAP` bytes (log 4): `QUERY` completes, with one send and one receive, and is a timeout exactly when nothing came. -/
def Obligations.QueryCompletesOnAnyAnswer : Prop :=
  ∀ s : State, s.transport.answers = [] →
    ∃ t rx, exec .query s = .next t ∧ rx.length ≤ Config.bufCap ∧ RxHolds t rx ∧
      TxHolds t (closed (six s.aId 0x03 s.aAddr s.aQty)) ∧
      t.transport = { answers := [], taken := s.transport.taken + 1,
                      trace := s.transport.trace ++ [.send (closed (six s.aId 0x03 s.aAddr s.aQty)), .receive rx] } ∧
      (t.status = .timeout ↔ rx = [])

/-- 44_master.md section 2 (R113): a host that drives the transport itself, with `ENC_REQ`, its own receive into `RXBUF` and `RXLEN`, and
`DEC_RSP`, obtains what `QUERY` obtains, for an answer that is not empty. (For an empty one the host tests `RXLEN` itself and runs no `DEC_RSP`;
`QUERY`'s side of it is in QueryClassifiesTheAnswer.) -/
def Obligations.QueryIsTheCompositionOfItsParts : Prop :=
  ∀ (s u : State) (rx : List Byte) (rest : List (List Byte)), s.transport.answers = rx :: rest → rx.length ≤ Config.bufCap → rx ≠ [] →
    u = { s with host := queryByParts rx } →
    ∃ t v, exec .query s = .next t ∧ core.run (rx.length + 3) u = .next v ∧
      t = { v with host := s.host, transport := t.transport }

/-- The exchange of the two roles over a transport that loses nothing (R104, R112; the source's two scenarios, 95_test_vectors.md L1-b and
L1-c): a query for registers the addressed slave has ends with their values in the master's value file; a query past its table ends with
exception 2 in the master's `R_EXC`. The bus between the two instances is not modelled (log 19): it is the premise that the slave's frame is the
master's next answer, placed in the list of answers that stands for the transport (log 4, DESIGN CHOICE). -/
def Obligations.MasterReadsTheSlavesRegisters : Prop :=
  ∀ (m s : State) (rest : List (List Byte)), m.aId = s.slaveId → RxHolds s (closed (six m.aId 0x03 m.aAddr m.aQty)) →
    (m.aAddr.toNat + m.aQty.toNat ≤ s.regTab.length → m.aQty.toNat ≤ 127 →
      ∃ s' F m', exec .respond s = .next s' ∧ TxHolds s' F ∧
        exec .query { m with transport := { m.transport with answers := F :: rest } } = .next m' ∧
        m'.status = .ok ∧ ValuesWritten m m' (registers s m.aAddr.toNat m.aQty.toNat)) ∧
    (s.regTab.length < m.aAddr.toNat + m.aQty.toNat →
      ∃ s' F m', exec .respond s = .next s' ∧ TxHolds s' F ∧
        exec .query { m with transport := { m.transport with answers := F :: rest } } = .next m' ∧
        m'.status = .exception ∧ m'.rExc = 2)

/-! ### Received frames (30_encoding.md; that receiving one runs its role's operation is log 7) -/

/-- A received frame of any kind, its CRC right or wrong, addressed to anyone, is stored in `RXBUF`, `RXLEN` (R17), the bytes above it as
before, and then runs the operation of the role it is meant for: `RESPOND` for a request, `DEC_RSP` for a response (R56; log 7). One longer
than `BUFCAP` is refused (U13). -/
def Obligations.ReceivedFramesRunTheirRole : Prop :=
  ∀ (i : Instr) (dir : Direction) (B : List Byte) (s : State), encode i = .frame dir B →
    (B.length ≤ Config.bufCap → ∃ u, RxHolds u B ∧ (∀ a, B.length ≤ a → Memory.read u.rxBuf a = Memory.read s.rxBuf a) ∧
      u = { s with rxBuf := u.rxBuf, rxLen := B.length } ∧
      exec i s = exec (match dir with | .request => .respond | .response => .decRsp) u) ∧
    (Config.bufCap < B.length → exec i s = .refused (.bufferOverrun B.length))

/-- A request for holding registers that is addressed to this slave, in range, of up to 127 registers and (where the check is on) closed by its
CRC, is served when received (R51, R104; log 7). -/
def Obligations.ReceivedReadRequestIsServed : Prop :=
  ∀ (s : State) (addr qty : Word) (l h : Byte),
    (s.reqCrcCheck = true → l = lo (crc16 (six s.slaveId 0x03 addr qty)) ∧ h = hi (crc16 (six s.slaveId 0x03 addr qty))) →
    addr.toNat + qty.toNat ≤ s.regTab.length → qty.toNat ≤ 127 →
    ∃ t, exec (.frameReqReadHolding s.slaveId addr qty l h) s = .next t ∧
      RxHolds t (six s.slaveId 0x03 addr qty ++ [l, h]) ∧ RxKeptFrom 8 s t ∧
      TxHolds t (closed (dataPayload s.slaveId 0x03 (registers s addr.toNat qty.toNat))) ∧ TxKept s t ∧
      ValuesWritten s t (registers s addr.toNat qty.toNat) ∧
      t = { s with rId := s.slaveId, rFc := 0x03, rAddr := addr, rQty := qty, rxBuf := t.rxBuf, rxLen := 8, txBuf := t.txBuf,
                   txLen := 5 + 2 * qty.toNat, val := t.val, valN := qty.toNat, written := { s.written with val := t.written.val },
                   crc := crc16 (dataPayload s.slaveId 0x03 (registers s addr.toNat qty.toNat)), status := .ok }

/-- A request with another function code that is addressed to this slave and (where the check is on) closed by its CRC is answered with
exception 1 when received (R51, R102; log 7). -/
def Obligations.ReceivedOtherFunctionIsAnswered : Prop :=
  ∀ (s : State) (fc : Byte) (addr qty : Word) (l h : Byte), fc ≠ 0x03 →
    (s.reqCrcCheck = true → l = lo (crc16 (six s.slaveId fc addr qty)) ∧ h = hi (crc16 (six s.slaveId fc addr qty))) →
    ∃ t, exec (.frameReqOtherFunction s.slaveId fc addr qty l h) s = .next t ∧
      RxHolds t (six s.slaveId fc addr qty ++ [l, h]) ∧ RxKeptFrom 8 s t ∧
      TxHolds t (closed [s.slaveId, fc ||| 0x80, 0x01]) ∧ TxKept s t ∧
      t = { s with rId := s.slaveId, rFc := fc, rAddr := addr, rQty := qty, rxBuf := t.rxBuf, rxLen := 8, rExc := 1,
                   txBuf := t.txBuf, txLen := 5, crc := crc16 [s.slaveId, fc ||| 0x80, 0x01], status := .exception }

/-- A normal response closed by its CRC, in its declared length and within `BUFCAP`, gives its values when received, whatever its address
and function code (R52, R93, R96; log 7). -/
def Obligations.ReceivedNormalResponseGivesItsValues : Prop :=
  ∀ (s : State) (id : Byte) (low : BitVec 7) (n : Byte) (data : List Byte), data.length = n.toNat → 5 + n.toNat ≤ Config.bufCap →
    let P := [id, low.setWidth 8, n] ++ data
    ∃ t, exec (.frameRspNormal id low n data (lo (crc16 P)) (hi (crc16 P))) s = .next t ∧ RxHolds t (closed P) ∧
      RxKeptFrom (5 + n.toNat) s t ∧
      ValuesWritten s t ((List.range (n.toNat / 2)).map fun i => num (byteAt data (2 * i)) (byteAt data (2 * i + 1))) ∧
      t = { s with rxBuf := t.rxBuf, rxLen := 5 + n.toNat, val := t.val, valN := n.toNat / 2,
                   written := { s.written with val := t.written.val }, crc := crc16 P, status := .ok }

/-- An exception response closed by its CRC gives its code when received, whatever its address, function code and code (R53, R94; log 7). -/
def Obligations.ReceivedExceptionGivesItsCode : Prop :=
  ∀ (s : State) (id : Byte) (low : BitVec 7) (code : Byte),
    let P := [id, low.setWidth 8 ||| 0x80, code]
    ∃ t, exec (.frameRspException id low code (lo (crc16 P)) (hi (crc16 P))) s = .next t ∧ RxHolds t (closed P) ∧
      RxKeptFrom 5 s t ∧
      t = { s with rxBuf := t.rxBuf, rxLen := 5, rExc := code, crc := crc16 P, status := .exception }

/-! ### Rules of the whole machine -/

/-- The invariant of a run: every step keeps the bounds and forms of the state (10_state.md R12, R15, R17; 20_memory.md R30). -/
def Obligations.EveryStepKeepsTheInvariant : Prop := ∀ s t : State, Inv s → step s = .next t → Inv t

/-- The state after reset meets the invariant of a run and has no frame to send, and no byte of a buffer holds a value (10_state.md R22, R23;
log 2). -/
def Obligations.ResetMeetsTheInvariant : Prop :=
  Inv State.reset ∧ TxFrameValid State.reset ∧
    ∀ a, Memory.read State.reset.rxBuf a = none ∧ Memory.read State.reset.txBuf a = none

/-- Whatever the host does, the frame to send is absent or whole and closed by its CRC: no step breaks it (30_encoding.md R50; 41_encode.md R84). -/
def Obligations.EveryStepKeepsTheFrameToSendValid : Prop :=
  ∀ s t : State, TxFrameValid s → step s = .next t → TxFrameValid t

/-- R153: the Register Table does not change while the block is in operation, nor does the rest of the configuration: a step that is not a
reset keeps them. -/
def Obligations.OnlyResetChangesTheTable : Prop :=
  ∀ s t : State, step s = .next t → (∀ (p : Params) (rest : List HostStep), s.host ≠ .reset p :: rest) →
    t.regTab = s.regTab ∧ t.slaveId = s.slaveId ∧ t.reqCrcCheck = s.reqCrcCheck

/-- 10_state.md section 2 (R10): no operation writes an operand register. The last clause, that none takes a step from the list of the host's
steps, is about the model's own field (log 3, DESIGN CHOICE). -/
def Obligations.OperationsNeverWriteOperands : Prop :=
  ∀ (i : Instr) (s t : State), exec i s = .next t →
    t.aId = s.aId ∧ t.aFc = s.aFc ∧ t.aAddr = s.aAddr ∧ t.aQty = s.aQty ∧ t.aExc = s.aExc ∧ t.aByte = s.aByte ∧ t.host = s.host

/-- 10_state.md section 2 (R10): the operand registers an operation's rule does not list do not affect it. Exchanging the values of all of them
changes nothing but those values. (That it does read the listed ones is in OperationsReadExactlyTheirOperands.) -/
def Obligations.UnlistedOperandsDoNotMatter : Prop :=
  ∀ (i : Instr) (j s : State),
    exec i (replaceUnlisted (operandsOf i) j s) = mapNext (replaceUnlisted (operandsOf i) j) (exec i s)

/-- What log 1 chose for the `A_` registers and `VAL` does not show where the spec gives a result (10_state.md R23, 70_reset_and_hazards.md R141):
where every register an instruction reads has been written, the values of the unwritten ones of these change nothing but those values. (What
log 1 chose for the `R_` registers never shows: ResultRegistersAreNeverRead.) -/
def Obligations.UnwrittenValuesDoNotMatter : Prop :=
  ∀ (i : Instr) (j s : State), operandsWritten i s = true →
    exec i (replaceUnwritten j s) = mapNext (replaceUnwritten j) (exec i s)

/-- 10_state.md section 4 (R14): no operation reads `STATUS`, and every operation writes it; its six codes. -/
def Obligations.StatusIsWrittenAndNeverRead : Prop :=
  (∀ (i : Instr) (s : State) (x : Status), exec i { s with status := x } = exec i s) ∧
  [Status.ok, .malformed, .exception, .timeout, .outOfRange, .notAddressed].map Status.code = [0, 1, 2, 3, 4, 5]

/-- 60_exceptions.md section 3 (R122): each operation ends in one of the outcomes listed for it. R122 lists none for the frame rows: theirs are
those of the operation that receiving one runs, by the model's choice (log 7, DESIGN CHOICE). -/
def Obligations.OperationsEndInTheirOutcomes : Prop :=
  ∀ (i : Instr) (s t : State), exec i s = .next t → t.status ∈ outcomesOf i

/-- An operation faults only on a byte of `RXBUF[0..RXLEN-1]` that nothing has written; a received frame never does. 10_state.md section 11 (R23)
says to refuse there: that an unwritten byte stops the machine is log 2 (DEDUCED), that it does so as a fault is the model's choice (log 20,
DESIGN CHOICE). -/
def Obligations.OperationsFaultOnlyOnUnwrittenBytes : Prop :=
  ∀ (i : Instr) (s : State) (f : Fault), exec i s = .fault f →
    (∃ k, f = .unwrittenByte k ∧ k < s.rxLen ∧ Memory.read s.rxBuf k = none) ∧
    (i = .crc16 ∨ i = .decReq ∨ i = .decRsp ∨ i = .respond)

/-- 93_implementation_defined.md part 1: the model refuses an operation exactly in the cases of U8, U10 and U13, and as what `RefusedCase` says: a
reserved code (U10); more than 127 values, those being `VALN`, the quantity in range of `A_QTY` or of the request (U8; log 15); more than
`BUFCAP` bytes from the transport or in a frame (U13; log 13). Which frames are refused rests on log 7 (DESIGN CHOICE). The spec also refuses a
read of an element that nothing has written (R23, U9), and those cases are not here: on an unwritten register the model runs (log 1, DESIGN
CHOICE), and on an unwritten byte it faults (log 20, DESIGN CHOICE; OperationsFaultOnlyOnUnwrittenBytes). -/
def Obligations.OperationsAreRefusedOnlyWhereTheSpecRefuses : Prop :=
  ∀ (i : Instr) (s : State) (r : Refusal), exec i s = .refused r ↔ RefusedCase s r i

/-- 10_state.md sections 1 and 2 (R10): an operation reads exactly the operand registers its rule lists. A register is listed if and only if for
some state and some other value in it the outcome differs in more than that value; and where `VAL` is listed, some other contents show. -/
def Obligations.OperationsReadExactlyTheirOperands : Prop :=
  ∀ i : Instr,
    ((operandsOf i).aId = true ↔ ∃ (v : Byte) (s : State), Shows i (fun x => { x with aId := v }) s) ∧
    ((operandsOf i).aFc = true ↔ ∃ (v : Byte) (s : State), Shows i (fun x => { x with aFc := v }) s) ∧
    ((operandsOf i).aAddr = true ↔ ∃ (v : Word) (s : State), Shows i (fun x => { x with aAddr := v }) s) ∧
    ((operandsOf i).aQty = true ↔ ∃ (v : Word) (s : State), Shows i (fun x => { x with aQty := v }) s) ∧
    ((operandsOf i).aExc = true ↔ ∃ (v : Byte) (s : State), Shows i (fun x => { x with aExc := v }) s) ∧
    ((operandsOf i).aByte = true ↔ ∃ (v : Byte) (s : State), Shows i (fun x => { x with aByte := v }) s) ∧
    ((operandsOf i).val = true → ∃ (V : Vector Word 127) (s : State), Shows i (fun x => { x with val := V }) s)

/-- 10_state.md sections 1 and 9 (R11, R12, R19): no operation reads a result register, and none but those that list `VAL` reads it. Two states
that differ there alone give the same stop, or next states that differ there alone, each of these elements being written alike in both or
kept in both. So the values log 1 chose for the `R_` registers never show. -/
def Obligations.ResultRegistersAreNeverRead : Prop :=
  ∀ (i : Instr) (s u : State), SameButResults s u → ((operandsOf i).val = true → u.val = s.val) →
    (∀ t, exec i s = .next t → ∃ t', exec i u = .next t' ∧ SameButResults t t' ∧ ResultsAlike s u t t') ∧
    (∀ f, exec i s = .fault f → exec i u = .fault f) ∧
    (∀ r, exec i s = .refused r → exec i u = .refused r)
end

