-- ==== Sys2Proof/Laws/Bytes.lean ====
section
/-! SUPPORT. The byte-order helpers of Decode.lean: what each computes, and that laying out and reading back agree. -/

namespace Sys2Proof

@[simp] theorem word_hiByte_loByte (v : Word) : word (hiByte v) (loByte v) = v := by
  apply BitVec.eq_of_getLsbD_eq
  intro i hi
  simp only [word, hiByte, loByte, BitVec.getLsbD_append, BitVec.getLsbD_extractLsb']
  by_cases h : i < 8
  · simp [h]
  · have : i - 8 < 8 := by omega
    simp [h, this, show 8 + (i - 8) = i by omega]

@[simp] theorem hiByte_word (h l : Byte) : hiByte (word h l) = h := by
  apply BitVec.eq_of_getLsbD_eq
  intro i hi
  simp only [word, hiByte, BitVec.getLsbD_extractLsb', BitVec.getLsbD_append]
  simp [hi]

@[simp] theorem loByte_word (h l : Byte) : loByte (word h l) = l := by
  apply BitVec.eq_of_getLsbD_eq
  intro i hi
  simp only [word, loByte, BitVec.getLsbD_extractLsb', BitVec.getLsbD_append]
  simp [hi]

theorem word_toNat (h l : Byte) : (word h l).toNat = h.toNat * 256 + l.toNat := by
  have := l.isLt
  simp only [word, BitVec.toNat_append]
  rw [Nat.shiftLeft_eq, ← Nat.shiftLeft_eq, ← Nat.shiftLeft_add_eq_or_of_lt l.isLt, Nat.shiftLeft_eq]

theorem hiByte_toNat (v : Word) : (hiByte v).toNat = v.toNat / 256 := by
  have h := word_toNat (hiByte v) (loByte v)
  rw [word_hiByte_loByte] at h
  have := (loByte v).isLt
  omega

theorem loByte_toNat (v : Word) : (loByte v).toNat = v.toNat % 256 := by
  have h := word_toNat (hiByte v) (loByte v)
  rw [word_hiByte_loByte] at h
  have := (loByte v).isLt
  omega

theorem hiByte_eq_ofNat (v : Word) : hiByte v = BitVec.ofNat 8 (v.toNat / 256) := by
  apply BitVec.eq_of_toNat_eq
  have := v.isLt
  rw [hiByte_toNat, BitVec.toNat_ofNat]; omega

theorem loByte_eq_ofNat (v : Word) : loByte v = BitVec.ofNat 8 (v.toNat % 256) := by
  apply BitVec.eq_of_toNat_eq
  rw [loByte_toNat, BitVec.toNat_ofNat]; omega

theorem word_eq_ofNat (h l : Byte) : word h l = BitVec.ofNat 16 (h.toNat * 256 + l.toNat) := by
  apply BitVec.eq_of_toNat_eq
  have := h.isLt
  have := l.isLt
  rw [word_toNat, BitVec.toNat_ofNat]; omega

theorem word_inj {h l h' l' : Byte} : word h l = word h' l' ↔ h = h' ∧ l = l' := by
  constructor
  · intro e
    exact ⟨by simpa using congrArg hiByte e, by simpa using congrArg loByte e⟩
  · rintro ⟨rfl, rfl⟩; rfl

/-! ### Sequences -/

@[simp] theorem byteAt_cons_zero (b : Byte) (B : List Byte) : byteAt (b :: B) 0 = b := rfl

@[simp] theorem byteAt_cons_succ (b : Byte) (B : List Byte) (i : Nat) : byteAt (b :: B) (i + 1) = byteAt B i := by
  simp [byteAt]

theorem byteAt_eq_getElem (B : List Byte) (i : Nat) (h : i < B.length) : byteAt B i = B[i] := by
  simp [byteAt, List.getD_eq_getElem?_getD, h]

theorem getElem?_eq_byteAt (B : List Byte) (i : Nat) (h : i < B.length) : B[i]? = some (byteAt B i) := by
  simp [byteAt_eq_getElem B i h, h]

theorem byteAt_take (B : List Byte) (n i : Nat) (h : i < n) : byteAt (B.take n) i = byteAt B i := by
  simp [byteAt, List.getD_eq_getElem?_getD, h]

theorem byteAt_drop (B : List Byte) (n i : Nat) : byteAt (B.drop n) i = byteAt B (n + i) := by
  simp [byteAt, List.getD_eq_getElem?_getD]

theorem byteAt_append_left (B C : List Byte) (i : Nat) (h : i < B.length) : byteAt (B ++ C) i = byteAt B i := by
  simp [byteAt, List.getD_eq_getElem?_getD, List.getElem?_append_left h]

theorem byteAt_append_right (B C : List Byte) (i : Nat) (h : B.length ≤ i) : byteAt (B ++ C) i = byteAt C (i - B.length) := by
  simp [byteAt, List.getD_eq_getElem?_getD, List.getElem?_append_right h]

@[simp] theorem bytesOfWords_length (vs : List Word) : (bytesOfWords vs).length = 2 * vs.length := by
  induction vs with
  | nil => rfl
  | cons v vs ih => simp only [bytesOfWords, List.length_cons, ih]; omega

/-- The high byte of value `i` stands at `2i`, its low byte at `2i + 1` (R83). -/
theorem byteAt_bytesOfWords (vs : List Word) (i : Nat) (h : i < vs.length) :
    byteAt (bytesOfWords vs) (2 * i) = hiByte vs[i] ∧ byteAt (bytesOfWords vs) (2 * i + 1) = loByte vs[i] := by
  induction vs generalizing i with
  | nil => simp at h
  | cons v vs ih =>
    cases i with
    | zero => simp [bytesOfWords]
    | succ i =>
      have := ih i (by simpa using h)
      simp only [bytesOfWords, show 2 * (i + 1) = 2 * i + 1 + 1 by omega, byteAt_cons_succ, List.getElem_cons_succ]
      exact this

@[simp] theorem wordsOfBytes_length (q : Nat) (B : List Byte) : (wordsOfBytes q B).length = q := by
  induction q generalizing B with
  | zero => rfl
  | succ q ih => simp [wordsOfBytes, ih]

/-- Value `i` is read from bytes `2i` and `2i + 1` (R93). -/
theorem wordsOfBytes_get (q : Nat) (B : List Byte) (i : Nat) (h : i < (wordsOfBytes q B).length) :
    (wordsOfBytes q B)[i] = be16 B (2 * i) := by
  induction q generalizing B i with
  | zero => simp [wordsOfBytes] at h
  | succ q ih =>
    cases i with
    | zero => simp [wordsOfBytes]
    | succ i =>
      simp only [wordsOfBytes, List.getElem_cons_succ]
      rw [ih]
      simp only [be16, byteAt_drop]
      rw [show 2 + 2 * i = 2 * (i + 1) by omega, show 2 + (2 * i + 1) = 2 * (i + 1) + 1 by omega]

/-- Reading back what was laid out, whatever follows it (R97). -/
@[simp] theorem wordsOfBytes_bytesOfWords (vs : List Word) (C : List Byte) :
    wordsOfBytes vs.length (bytesOfWords vs ++ C) = vs := by
  induction vs with
  | nil => rfl
  | cons v vs ih => simp [wordsOfBytes, bytesOfWords, be16, ih]

/-! ### The function-code byte of a response (R52, R53) -/

@[simp] theorem normalFunctionByte_msb (f : BitVec 7) : (normalFunctionByte f).msb = false := by
  revert f; decide

@[simp] theorem normalFunctionByte_low (f : BitVec 7) : (normalFunctionByte f).setWidth 7 = f := by
  revert f; decide

theorem normalFunctionByte_of_low {b : Byte} (h : b.msb = false) : normalFunctionByte (b.setWidth 7) = b := by
  revert b; decide

@[simp] theorem exceptionFunctionByte_msb (f : BitVec 7) : (exceptionFunctionByte f).msb = true := by
  revert f; decide

@[simp] theorem exceptionFunctionByte_low (f : BitVec 7) : (exceptionFunctionByte f).setWidth 7 = f := by
  revert f; decide

theorem exceptionFunctionByte_of_low {b : Byte} (h : b.msb = true) : exceptionFunctionByte (b.setWidth 7) = b := by
  revert b; decide

theorem or_excFlag_msb (b : Byte) : (b ||| excFlag).msb = true := by
  revert b; decide

end Sys2Proof
end

