-- ==== Sys2Proof/Laws/Crc.lean ====
section
/-! SUPPORT. The CRC generator: sequences, the frame it closes, and that each bit step can be undone (R76 c). -/

namespace Sys2Proof.Machine

@[simp] theorem crcFrom_nil (c : Word) : crcFrom c [] = c := rfl

@[simp] theorem crcFrom_cons (c : Word) (b : Byte) (B : List Byte) : crcFrom c (b :: B) = crcFrom (crcByte c b) B := rfl

/-- The generator continues from where it stands (R76 a). -/
theorem crcFrom_append (c : Word) (X Y : List Byte) : crcFrom c (X ++ Y) = crcFrom (crcFrom c X) Y := by
  induction X generalizing c with
  | nil => rfl
  | cons b X ih => exact ih (crcByte c b)

theorem crcFrom_eq_foldl (c : Word) (B : List Byte) : crcFrom c B = B.foldl crcByte c := by
  induction B generalizing c with
  | nil => rfl
  | cons b B ih => exact ih (crcByte c b)

@[simp] theorem withCrc_length (P : List Byte) : (withCrc P).length = P.length + 2 := by simp [withCrc]

/-- The two bytes after a payload, read low byte first. -/
theorem le16_append (P : List Byte) (l h : Byte) (T : List Byte) : le16 (P ++ l :: h :: T) P.length = word h l := by
  rw [le16, byteAt_append_right P _ _ (Nat.le_succ _), byteAt_append_right P _ _ (Nat.le_refl _)]
  rw [show P.length + 1 - P.length = 1 by omega, Nat.sub_self]
  rfl

/-- The CRC test on a payload and its two CRC bytes (R90). -/
theorem crcOk_append (P : List Byte) (l h : Byte) (T : List Byte) :
    crcOk (P ++ l :: h :: T) P.length = true ↔ word h l = crc16 P := by
  simp [crcOk, le16_append]

/-- The CRC test says that the two bytes are the low and the high byte of the CRC (R90). -/
theorem crcOk_iff (B : List Byte) (k : Nat) :
    crcOk B k = true ↔ byteAt B k = loByte (crc16 (B.take k)) ∧ byteAt B (k + 1) = hiByte (crc16 (B.take k)) := by
  simp only [crcOk, le16, beq_iff_eq]
  constructor
  · intro h; rw [← h]; simp
  · rintro ⟨h1, h2⟩; rw [h1, h2]; simp

/-- What `with_crc` closes passes the CRC test. -/
@[simp] theorem crcOk_withCrc (P : List Byte) : crcOk (withCrc P) P.length = true := (crcOk_append P _ _ []).2 (by simp)

/-! ### Bit steps -/

theorem crcBits_add (j k : Nat) (c : Word) : crcBits (j + k) c = crcBits k (crcBits j c) := by
  induction j generalizing c with
  | zero => simp [crcBits]
  | succ j ih => rw [Nat.succ_add]; exact ih (crcBit c)

/-- Bit 15 of the result tells whether the polynomial was applied (R76 c). -/
theorem crcBit_msb (c : Word) : (crcBit c).msb = c.getLsbD 0 := by
  unfold crcBit
  split
  · rename_i h; rw [h]; simp only [BitVec.msb_xor, BitVec.msb_ushiftRight]; simp; decide
  · rename_i h; simp only [Bool.not_eq_true] at h; rw [h]; simp [BitVec.msb_ushiftRight]

theorem crcBit_injective {c d : Word} (h : crcBit c = crcBit d) : c = d := by
  have h0 : c.getLsbD 0 = d.getLsbD 0 := by rw [← crcBit_msb, ← crcBit_msb, h]
  have hs : c >>> 1 = d >>> 1 := by
    unfold crcBit at h
    rw [h0] at h
    split at h
    · exact (BitVec.xor_left_inj _).1 h
    · exact h
  apply BitVec.eq_of_getLsbD_eq
  intro i _
  cases i with
  | zero => exact h0
  | succ i =>
    have := congrArg (fun x => BitVec.getLsbD x i) hs
    simpa [BitVec.getLsbD_ushiftRight, Nat.add_comm] using this

theorem crcBits_injective (k : Nat) {c d : Word} (h : crcBits k c = crcBits k d) : c = d := by
  induction k generalizing c d with
  | zero => exact h
  | succ k ih => exact crcBit_injective (ih h)

/-- Where the register's low bits are clear, bit steps only shift. -/
theorem crcBits_of_low_zero (k : Nat) (c : Word) (h : ∀ i, i < k → c.getLsbD i = false) : crcBits k c = c >>> k := by
  induction k generalizing c with
  | zero => simp [crcBits]
  | succ k ih =>
    rw [crcBits, crcBit, h 0 (by omega), if_neg (by simp), ih]
    · rw [← BitVec.shiftRight_add, Nat.add_comm]
    · intro i hi; rw [BitVec.getLsbD_ushiftRight]; exact h _ (by omega)

/-- For fixed bytes, the register value they leave determines the one they started from. -/
theorem crcFrom_injective (B : List Byte) {c d : Word} (h : crcFrom c B = crcFrom d B) : c = d := by
  induction B generalizing c d with
  | nil => exact h
  | cons b B ih => exact (BitVec.xor_left_inj _).1 (crcBits_injective 8 (ih h))

end Sys2Proof.Machine
end

