-- ==== Sys2Proof/Laws/Memory.lean ====
section
/-! SUPPORT. The laws of a frame buffer: read after write, the canonical form, and sequences of bytes. -/

namespace Sys2Proof.Machine

@[simp] theorem Memory.read_nil (i : Nat) : Memory.read [] i = none := rfl

/-- Read after write. -/
@[simp] theorem Memory.read_write (m : Memory) (i j : Nat) (v : Byte) :
    Memory.read (Memory.write m i v) j = if j = i then some v else Memory.read m j := by
  induction m with
  | nil => simp [Memory.write, Memory.read]
  | cons c m ih =>
    obtain ⟨a, b⟩ := c
    simp only [Memory.write]
    split
    · simp [Memory.read]
    · split
      · subst_vars; simp only [Memory.read]; split <;> rfl
      · simp only [Memory.read, ih]; split <;> split <;> simp_all

theorem Memory.rising_write {lo i : Nat} {m : Memory} (v : Byte) (hm : Memory.rising lo m = true) (hi : lo < i) :
    Memory.rising lo (Memory.write m i v) = true := by
  induction m generalizing lo with
  | nil => simp [Memory.write, Memory.rising, hi]
  | cons c m ih =>
    obtain ⟨a, b⟩ := c
    simp only [Memory.rising, Bool.and_eq_true, decide_eq_true_eq] at hm
    simp only [Memory.write]
    split
    · simp_all [Memory.rising]
    · split
      · simp_all [Memory.rising]
      · simp only [Memory.rising, Bool.and_eq_true, decide_eq_true_eq]
        exact ⟨hm.1, ih hm.2 (by omega)⟩

/-- Writing a byte keeps the canonical form. -/
theorem Memory.wf_write {m : Memory} (i : Nat) (v : Byte) (hm : Memory.wf m = true) : Memory.wf (Memory.write m i v) = true := by
  cases m with
  | nil => rfl
  | cons c m =>
    obtain ⟨a, b⟩ := c
    simp only [Memory.wf] at hm
    simp only [Memory.write]
    split
    · simp_all [Memory.wf, Memory.rising]
    · split
      · simp_all [Memory.wf]
      · exact Memory.rising_write v hm (by omega)

/-- Writing a sequence keeps the canonical form. -/
theorem Memory.wf_writeBytes {m : Memory} (i : Nat) (F : List Byte) (hm : Memory.wf m = true) :
    Memory.wf (Memory.writeBytes m i F) = true := by
  induction F generalizing m i with
  | nil => exact hm
  | cons b F ih => exact ih (i + 1) (Memory.wf_write i b hm)

/-- Below the canonical form: nothing at or under `lo` is listed. -/
theorem Memory.read_of_rising {lo j : Nat} {m : Memory} (hm : Memory.rising lo m = true) (hj : j ≤ lo) :
    Memory.read m j = none := by
  induction m generalizing lo with
  | nil => rfl
  | cons c m ih =>
    obtain ⟨a, b⟩ := c
    simp only [Memory.rising, Bool.and_eq_true, decide_eq_true_eq] at hm
    simp only [Memory.read]
    rw [if_neg (by omega)]
    exact ih hm.2 (by omega)

/-- A rising list is determined by what it reads as. -/
theorem Memory.ext_of_rising {lo : Nat} {m m' : Memory} (hm : Memory.rising lo m = true) (hm' : Memory.rising lo m' = true)
    (h : ∀ i, Memory.read m i = Memory.read m' i) : m = m' := by
  induction m generalizing lo m' with
  | nil =>
    cases m' with
    | nil => rfl
    | cons c m' => obtain ⟨a, b⟩ := c; simpa [Memory.read] using h a
  | cons c m ih =>
    obtain ⟨a, b⟩ := c
    cases m' with
    | nil => simpa [Memory.read] using h a
    | cons c' m' =>
      obtain ⟨a', b'⟩ := c'
      simp only [Memory.rising, Bool.and_eq_true, decide_eq_true_eq] at hm hm'
      have ha : a = a' := by
        rcases Nat.lt_trichotomy a a' with hlt | heq | hgt
        · have := h a
          simp only [Memory.read] at this
          rw [if_neg (by omega : ¬ a = a'), Memory.read_of_rising hm'.2 (by omega)] at this
          simp at this
        · exact heq
        · have := h a'
          simp only [Memory.read] at this
          rw [if_neg (by omega : ¬ a' = a), Memory.read_of_rising hm.2 (by omega)] at this
          simp at this
      subst ha
      have hb : b = b' := by simpa [Memory.read] using h a
      subst hb
      rw [ih hm.2 hm'.2 fun i => ?_]
      by_cases hi : i = a
      · subst hi
        rw [Memory.read_of_rising hm.2 (Nat.le_refl _), Memory.read_of_rising hm'.2 (Nat.le_refl _)]
      · have := h i
        simpa [Memory.read, hi] using this

/-- Read after writing a sequence. -/
@[simp] theorem Memory.read_writeBytes (m : Memory) (i : Nat) (F : List Byte) (j : Nat) :
    Memory.read (Memory.writeBytes m i F) j =
      if i ≤ j ∧ j < i + F.length then F[j - i]? else Memory.read m j := by
  induction F generalizing m i with
  | nil =>
    simp only [Memory.writeBytes, List.length_nil]
    rw [if_neg (by omega)]
  | cons b F ih =>
    simp only [Memory.writeBytes, ih, Memory.read_write, List.length_cons]
    by_cases h1 : i + 1 ≤ j ∧ j < i + 1 + F.length
    · rw [if_pos h1, if_pos (by omega)]
      obtain ⟨k, rfl⟩ : ∃ k, j = i + 1 + k := ⟨j - (i + 1), by omega⟩
      rw [show i + 1 + k - (i + 1) = k by omega, show i + 1 + k - i = k + 1 by omega]
      simp
    · rw [if_neg h1]
      by_cases h2 : j = i
      · subst h2; simp
      · rw [if_neg h2, if_neg (by omega)]

/-- `readBytes` says `ok` exactly when every byte it reads holds a value, and then it is those values. -/
theorem Memory.readBytes_eq_ok {m : Memory} {i n : Nat} {B : List Byte} :
    Memory.readBytes m i n = .ok B ↔ B.length = n ∧ ∀ k, k < n → Memory.read m (i + k) = B[k]? := by
  induction n generalizing i B with
  | zero => cases B <;> simp [Memory.readBytes]
  | succ n ih =>
    simp only [Memory.readBytes]
    split
    · rename_i h
      constructor
      · intro hh; simp at hh
      · rintro ⟨hl, hr⟩
        have := hr 0 (by omega)
        rw [Nat.add_zero, h] at this
        cases B with
        | nil => simp at hl
        | cons b B => simp at this
    · rename_i b h
      split
      · rename_i j hj
        constructor
        · intro hh; simp at hh
        · rintro ⟨hl, hr⟩
          exfalso
          cases B with
          | nil => simp at hl
          | cons b' B =>
            have : Memory.readBytes m (i + 1) n = .ok B := by
              rw [ih]
              refine ⟨by simpa using hl, fun k hk => ?_⟩
              have := hr (k + 1) (by omega)
              rw [show i + 1 + k = i + (k + 1) by omega, this]; simp
            rw [this] at hj; simp at hj
      · rename_i B' hB'
        obtain ⟨hl', hr'⟩ := ih.1 hB'
        constructor
        · intro hh
          simp only [Except.ok.injEq] at hh
          subst hh
          refine ⟨by simp [hl'], fun k hk => ?_⟩
          cases k with
          | zero => simp [h]
          | succ k =>
            have := hr' k (by omega)
            rw [show i + (k + 1) = i + 1 + k by omega, this]; simp
        · rintro ⟨hl, hr⟩
          cases B with
          | nil => simp at hl
          | cons b' B =>
            have h0 := hr 0 (by omega)
            rw [Nat.add_zero, h] at h0
            have hBB : Memory.readBytes m (i + 1) n = .ok B := by
              rw [ih]
              refine ⟨by simpa using hl, fun k hk => ?_⟩
              have := hr (k + 1) (by omega)
              rw [show i + 1 + k = i + (k + 1) by omega, this]; simp
            rw [hBB] at hB'
            simp only [Except.ok.injEq] at hB'
            simp at h0
            simp [h0, hB']

/-- An error of `readBytes` names a byte in its range that holds no value. -/
theorem Memory.readBytes_eq_error {m : Memory} {i n j : Nat} (h : Memory.readBytes m i n = .error j) :
    i ≤ j ∧ j < i + n ∧ Memory.read m j = none := by
  induction n generalizing i with
  | zero => simp [Memory.readBytes] at h
  | succ n ih =>
    simp only [Memory.readBytes] at h
    split at h
    · rename_i hr
      simp only [Except.error.injEq] at h
      subst h
      exact ⟨Nat.le_refl _, by omega, hr⟩
    · split at h
      · rename_i j' hj'
        simp only [Except.error.injEq] at h
        subst h
        have := ih hj'
        exact ⟨by omega, by omega, this.2.2⟩
      · simp at h

/-- What a buffer holds after a sequence was written from index 0: the sequence. -/
@[simp] theorem Memory.readBytes_writeBytes (m : Memory) (F : List Byte) :
    Memory.readBytes (Memory.writeBytes m 0 F) 0 F.length = .ok F := by
  rw [Memory.readBytes_eq_ok]
  refine ⟨rfl, fun k hk => ?_⟩
  rw [Memory.read_writeBytes, if_pos (by omega)]
  simp

/-- A prefix of what was written from index 0. -/
theorem Memory.readBytes_writeBytes_take (m : Memory) (F : List Byte) (n : Nat) (hn : n ≤ F.length) :
    Memory.readBytes (Memory.writeBytes m 0 F) 0 n = .ok (F.take n) := by
  rw [Memory.readBytes_eq_ok]
  refine ⟨by simp [hn], fun k hk => ?_⟩
  rw [Memory.read_writeBytes, if_pos (by omega)]
  simp [hk]

/-! ### Sequences into register files -/

theorem setFrom_get? {α : Type} {n : Nat} (xs : List α) (i : Nat) (V : Vector α n) (k : Nat) (hk : k < n) :
    (setFrom xs i V)[k] = if h : i ≤ k ∧ k < i + xs.length then xs[k - i]'(by omega) else V[k] := by
  induction xs generalizing i V with
  | nil => simp only [setFrom]; rw [dif_neg (by simp)]
  | cons x xs ih =>
    simp only [setFrom, ih, List.length_cons]
    by_cases h1 : i + 1 ≤ k ∧ k < i + 1 + xs.length
    · rw [dif_pos h1, dif_pos (by omega)]
      obtain ⟨j, rfl⟩ : ∃ j, k = i + 1 + j := ⟨k - (i + 1), by omega⟩
      simp [show i + 1 + j - (i + 1) = j by omega, show i + 1 + j - i = j + 1 by omega]
    · rw [dif_neg h1, Vector.getElem_setIfInBounds]
      by_cases h2 : i = k
      · subst h2; simp
      · rw [if_neg h2, dif_neg (by omega)]

/-- Entry `k` after a sequence was written from entry 0. -/
@[simp] theorem setFrom_zero_get {α : Type} {n : Nat} (xs : List α) (V : Vector α n) (k : Nat) (hk : k < n) :
    (setFrom xs 0 V)[k] = if h : k < xs.length then xs[k] else V[k] := by
  rw [setFrom_get?]
  by_cases h : k < xs.length
  · rw [dif_pos (by omega), dif_pos h]; simp
  · rw [dif_neg (by omega), dif_neg h]

end Sys2Proof.Machine
end

