-- ==== Sys2Proof/Laws/State.lean ====
section
/-! SUPPORT. One lemma per field per shared update of State: what it writes and that it keeps the rest. -/

namespace Sys2Proof.Machine

variable (s : State)

@[simp] theorem State.raise_aId (x : Status) : (s.raise x).aId = s.aId := rfl
@[simp] theorem State.raise_aFc (x : Status) : (s.raise x).aFc = s.aFc := rfl
@[simp] theorem State.raise_aAddr (x : Status) : (s.raise x).aAddr = s.aAddr := rfl
@[simp] theorem State.raise_aQty (x : Status) : (s.raise x).aQty = s.aQty := rfl
@[simp] theorem State.raise_aExc (x : Status) : (s.raise x).aExc = s.aExc := rfl
@[simp] theorem State.raise_aByte (x : Status) : (s.raise x).aByte = s.aByte := rfl
@[simp] theorem State.raise_rId (x : Status) : (s.raise x).rId = s.rId := rfl
@[simp] theorem State.raise_rFc (x : Status) : (s.raise x).rFc = s.rFc := rfl
@[simp] theorem State.raise_rAddr (x : Status) : (s.raise x).rAddr = s.rAddr := rfl
@[simp] theorem State.raise_rQty (x : Status) : (s.raise x).rQty = s.rQty := rfl
@[simp] theorem State.raise_rExc (x : Status) : (s.raise x).rExc = s.rExc := rfl
@[simp] theorem State.raise_val (x : Status) : (s.raise x).val = s.val := rfl
@[simp] theorem State.raise_valN (x : Status) : (s.raise x).valN = s.valN := rfl
@[simp] theorem State.raise_status (x : Status) : (s.raise x).status = x := rfl
@[simp] theorem State.raise_crc (x : Status) : (s.raise x).crc = s.crc := rfl
@[simp] theorem State.raise_rxBuf (x : Status) : (s.raise x).rxBuf = s.rxBuf := rfl
@[simp] theorem State.raise_rxLen (x : Status) : (s.raise x).rxLen = s.rxLen := rfl
@[simp] theorem State.raise_txBuf (x : Status) : (s.raise x).txBuf = s.txBuf := rfl
@[simp] theorem State.raise_txLen (x : Status) : (s.raise x).txLen = s.txLen := rfl
@[simp] theorem State.raise_slaveId (x : Status) : (s.raise x).slaveId = s.slaveId := rfl
@[simp] theorem State.raise_reqCrcCheck (x : Status) : (s.raise x).reqCrcCheck = s.reqCrcCheck := rfl
@[simp] theorem State.raise_regTab (x : Status) : (s.raise x).regTab = s.regTab := rfl
@[simp] theorem State.raise_host (x : Status) : (s.raise x).host = s.host := rfl
@[simp] theorem State.raise_transport (x : Status) : (s.raise x).transport = s.transport := rfl
@[simp] theorem State.raise_written (x : Status) : (s.raise x).written = s.written := rfl

@[simp] theorem State.writeVals_aId (vs : List Word) : (s.writeVals vs).aId = s.aId := rfl
@[simp] theorem State.writeVals_aFc (vs : List Word) : (s.writeVals vs).aFc = s.aFc := rfl
@[simp] theorem State.writeVals_aAddr (vs : List Word) : (s.writeVals vs).aAddr = s.aAddr := rfl
@[simp] theorem State.writeVals_aQty (vs : List Word) : (s.writeVals vs).aQty = s.aQty := rfl
@[simp] theorem State.writeVals_aExc (vs : List Word) : (s.writeVals vs).aExc = s.aExc := rfl
@[simp] theorem State.writeVals_aByte (vs : List Word) : (s.writeVals vs).aByte = s.aByte := rfl
@[simp] theorem State.writeVals_rId (vs : List Word) : (s.writeVals vs).rId = s.rId := rfl
@[simp] theorem State.writeVals_rFc (vs : List Word) : (s.writeVals vs).rFc = s.rFc := rfl
@[simp] theorem State.writeVals_rAddr (vs : List Word) : (s.writeVals vs).rAddr = s.rAddr := rfl
@[simp] theorem State.writeVals_rQty (vs : List Word) : (s.writeVals vs).rQty = s.rQty := rfl
@[simp] theorem State.writeVals_rExc (vs : List Word) : (s.writeVals vs).rExc = s.rExc := rfl
@[simp] theorem State.writeVals_val (vs : List Word) : (s.writeVals vs).val = setFrom vs 0 s.val := rfl
@[simp] theorem State.writeVals_valN (vs : List Word) : (s.writeVals vs).valN = vs.length := rfl
@[simp] theorem State.writeVals_status (vs : List Word) : (s.writeVals vs).status = s.status := rfl
@[simp] theorem State.writeVals_crc (vs : List Word) : (s.writeVals vs).crc = s.crc := rfl
@[simp] theorem State.writeVals_rxBuf (vs : List Word) : (s.writeVals vs).rxBuf = s.rxBuf := rfl
@[simp] theorem State.writeVals_rxLen (vs : List Word) : (s.writeVals vs).rxLen = s.rxLen := rfl
@[simp] theorem State.writeVals_txBuf (vs : List Word) : (s.writeVals vs).txBuf = s.txBuf := rfl
@[simp] theorem State.writeVals_txLen (vs : List Word) : (s.writeVals vs).txLen = s.txLen := rfl
@[simp] theorem State.writeVals_slaveId (vs : List Word) : (s.writeVals vs).slaveId = s.slaveId := rfl
@[simp] theorem State.writeVals_reqCrcCheck (vs : List Word) : (s.writeVals vs).reqCrcCheck = s.reqCrcCheck := rfl
@[simp] theorem State.writeVals_regTab (vs : List Word) : (s.writeVals vs).regTab = s.regTab := rfl
@[simp] theorem State.writeVals_host (vs : List Word) : (s.writeVals vs).host = s.host := rfl
@[simp] theorem State.writeVals_transport (vs : List Word) : (s.writeVals vs).transport = s.transport := rfl
@[simp] theorem State.writeVals_written (vs : List Word) :
    (s.writeVals vs).written = { s.written with val := setFrom (vs.map fun _ => true) 0 s.written.val } := rfl

@[simp] theorem State.writeRequest_aId (d : Request) : (s.writeRequest d).aId = s.aId := rfl
@[simp] theorem State.writeRequest_aFc (d : Request) : (s.writeRequest d).aFc = s.aFc := rfl
@[simp] theorem State.writeRequest_aAddr (d : Request) : (s.writeRequest d).aAddr = s.aAddr := rfl
@[simp] theorem State.writeRequest_aQty (d : Request) : (s.writeRequest d).aQty = s.aQty := rfl
@[simp] theorem State.writeRequest_aExc (d : Request) : (s.writeRequest d).aExc = s.aExc := rfl
@[simp] theorem State.writeRequest_aByte (d : Request) : (s.writeRequest d).aByte = s.aByte := rfl
@[simp] theorem State.writeRequest_rId (d : Request) : (s.writeRequest d).rId = d.id := rfl
@[simp] theorem State.writeRequest_rFc (d : Request) : (s.writeRequest d).rFc = d.fc := rfl
@[simp] theorem State.writeRequest_rAddr (d : Request) : (s.writeRequest d).rAddr = d.addr := rfl
@[simp] theorem State.writeRequest_rQty (d : Request) : (s.writeRequest d).rQty = d.qty := rfl
@[simp] theorem State.writeRequest_rExc (d : Request) : (s.writeRequest d).rExc = s.rExc := rfl
@[simp] theorem State.writeRequest_val (d : Request) : (s.writeRequest d).val = s.val := rfl
@[simp] theorem State.writeRequest_valN (d : Request) : (s.writeRequest d).valN = s.valN := rfl
@[simp] theorem State.writeRequest_status (d : Request) : (s.writeRequest d).status = s.status := rfl
@[simp] theorem State.writeRequest_crc (d : Request) : (s.writeRequest d).crc = s.crc := rfl
@[simp] theorem State.writeRequest_rxBuf (d : Request) : (s.writeRequest d).rxBuf = s.rxBuf := rfl
@[simp] theorem State.writeRequest_rxLen (d : Request) : (s.writeRequest d).rxLen = s.rxLen := rfl
@[simp] theorem State.writeRequest_txBuf (d : Request) : (s.writeRequest d).txBuf = s.txBuf := rfl
@[simp] theorem State.writeRequest_txLen (d : Request) : (s.writeRequest d).txLen = s.txLen := rfl
@[simp] theorem State.writeRequest_slaveId (d : Request) : (s.writeRequest d).slaveId = s.slaveId := rfl
@[simp] theorem State.writeRequest_reqCrcCheck (d : Request) : (s.writeRequest d).reqCrcCheck = s.reqCrcCheck := rfl
@[simp] theorem State.writeRequest_regTab (d : Request) : (s.writeRequest d).regTab = s.regTab := rfl
@[simp] theorem State.writeRequest_host (d : Request) : (s.writeRequest d).host = s.host := rfl
@[simp] theorem State.writeRequest_transport (d : Request) : (s.writeRequest d).transport = s.transport := rfl
@[simp] theorem State.writeRequest_written (d : Request) : (s.writeRequest d).written = s.written := rfl

@[simp] theorem State.writeCrc_aId (c : Option Word) : (s.writeCrc c).aId = s.aId := by cases c <;> rfl
@[simp] theorem State.writeCrc_aFc (c : Option Word) : (s.writeCrc c).aFc = s.aFc := by cases c <;> rfl
@[simp] theorem State.writeCrc_aAddr (c : Option Word) : (s.writeCrc c).aAddr = s.aAddr := by cases c <;> rfl
@[simp] theorem State.writeCrc_aQty (c : Option Word) : (s.writeCrc c).aQty = s.aQty := by cases c <;> rfl
@[simp] theorem State.writeCrc_aExc (c : Option Word) : (s.writeCrc c).aExc = s.aExc := by cases c <;> rfl
@[simp] theorem State.writeCrc_aByte (c : Option Word) : (s.writeCrc c).aByte = s.aByte := by cases c <;> rfl
@[simp] theorem State.writeCrc_rId (c : Option Word) : (s.writeCrc c).rId = s.rId := by cases c <;> rfl
@[simp] theorem State.writeCrc_rFc (c : Option Word) : (s.writeCrc c).rFc = s.rFc := by cases c <;> rfl
@[simp] theorem State.writeCrc_rAddr (c : Option Word) : (s.writeCrc c).rAddr = s.rAddr := by cases c <;> rfl
@[simp] theorem State.writeCrc_rQty (c : Option Word) : (s.writeCrc c).rQty = s.rQty := by cases c <;> rfl
@[simp] theorem State.writeCrc_rExc (c : Option Word) : (s.writeCrc c).rExc = s.rExc := by cases c <;> rfl
@[simp] theorem State.writeCrc_val (c : Option Word) : (s.writeCrc c).val = s.val := by cases c <;> rfl
@[simp] theorem State.writeCrc_valN (c : Option Word) : (s.writeCrc c).valN = s.valN := by cases c <;> rfl
@[simp] theorem State.writeCrc_status (c : Option Word) : (s.writeCrc c).status = s.status := by cases c <;> rfl
@[simp] theorem State.writeCrc_crc (c : Option Word) : (s.writeCrc c).crc = c.getD s.crc := by cases c <;> rfl
@[simp] theorem State.writeCrc_rxBuf (c : Option Word) : (s.writeCrc c).rxBuf = s.rxBuf := by cases c <;> rfl
@[simp] theorem State.writeCrc_rxLen (c : Option Word) : (s.writeCrc c).rxLen = s.rxLen := by cases c <;> rfl
@[simp] theorem State.writeCrc_txBuf (c : Option Word) : (s.writeCrc c).txBuf = s.txBuf := by cases c <;> rfl
@[simp] theorem State.writeCrc_txLen (c : Option Word) : (s.writeCrc c).txLen = s.txLen := by cases c <;> rfl
@[simp] theorem State.writeCrc_slaveId (c : Option Word) : (s.writeCrc c).slaveId = s.slaveId := by cases c <;> rfl
@[simp] theorem State.writeCrc_reqCrcCheck (c : Option Word) :
    (s.writeCrc c).reqCrcCheck = s.reqCrcCheck := by cases c <;> rfl
@[simp] theorem State.writeCrc_regTab (c : Option Word) : (s.writeCrc c).regTab = s.regTab := by cases c <;> rfl
@[simp] theorem State.writeCrc_host (c : Option Word) : (s.writeCrc c).host = s.host := by cases c <;> rfl
@[simp] theorem State.writeCrc_transport (c : Option Word) : (s.writeCrc c).transport = s.transport := by cases c <;> rfl
@[simp] theorem State.writeCrc_written (c : Option Word) : (s.writeCrc c).written = s.written := by cases c <;> rfl

@[simp] theorem State.sendPayload_aId (P : List Byte) : (s.sendPayload P).aId = s.aId := rfl
@[simp] theorem State.sendPayload_aFc (P : List Byte) : (s.sendPayload P).aFc = s.aFc := rfl
@[simp] theorem State.sendPayload_aAddr (P : List Byte) : (s.sendPayload P).aAddr = s.aAddr := rfl
@[simp] theorem State.sendPayload_aQty (P : List Byte) : (s.sendPayload P).aQty = s.aQty := rfl
@[simp] theorem State.sendPayload_aExc (P : List Byte) : (s.sendPayload P).aExc = s.aExc := rfl
@[simp] theorem State.sendPayload_aByte (P : List Byte) : (s.sendPayload P).aByte = s.aByte := rfl
@[simp] theorem State.sendPayload_rId (P : List Byte) : (s.sendPayload P).rId = s.rId := rfl
@[simp] theorem State.sendPayload_rFc (P : List Byte) : (s.sendPayload P).rFc = s.rFc := rfl
@[simp] theorem State.sendPayload_rAddr (P : List Byte) : (s.sendPayload P).rAddr = s.rAddr := rfl
@[simp] theorem State.sendPayload_rQty (P : List Byte) : (s.sendPayload P).rQty = s.rQty := rfl
@[simp] theorem State.sendPayload_rExc (P : List Byte) : (s.sendPayload P).rExc = s.rExc := rfl
@[simp] theorem State.sendPayload_val (P : List Byte) : (s.sendPayload P).val = s.val := rfl
@[simp] theorem State.sendPayload_valN (P : List Byte) : (s.sendPayload P).valN = s.valN := rfl
@[simp] theorem State.sendPayload_status (P : List Byte) : (s.sendPayload P).status = s.status := rfl
@[simp] theorem State.sendPayload_crc (P : List Byte) : (s.sendPayload P).crc = crc16 P := rfl
@[simp] theorem State.sendPayload_rxBuf (P : List Byte) : (s.sendPayload P).rxBuf = s.rxBuf := rfl
@[simp] theorem State.sendPayload_rxLen (P : List Byte) : (s.sendPayload P).rxLen = s.rxLen := rfl
@[simp] theorem State.sendPayload_txBuf (P : List Byte) :
    (s.sendPayload P).txBuf = Memory.writeBytes s.txBuf 0 (withCrc P) := rfl
@[simp] theorem State.sendPayload_txLen (P : List Byte) : (s.sendPayload P).txLen = (withCrc P).length := rfl
@[simp] theorem State.sendPayload_slaveId (P : List Byte) : (s.sendPayload P).slaveId = s.slaveId := rfl
@[simp] theorem State.sendPayload_reqCrcCheck (P : List Byte) : (s.sendPayload P).reqCrcCheck = s.reqCrcCheck := rfl
@[simp] theorem State.sendPayload_regTab (P : List Byte) : (s.sendPayload P).regTab = s.regTab := rfl
@[simp] theorem State.sendPayload_host (P : List Byte) : (s.sendPayload P).host = s.host := rfl
@[simp] theorem State.sendPayload_transport (P : List Byte) : (s.sendPayload P).transport = s.transport := rfl
@[simp] theorem State.sendPayload_written (P : List Byte) : (s.sendPayload P).written = s.written := rfl

@[simp] theorem State.sendNothing_aId : (s.sendNothing).aId = s.aId := rfl
@[simp] theorem State.sendNothing_aFc : (s.sendNothing).aFc = s.aFc := rfl
@[simp] theorem State.sendNothing_aAddr : (s.sendNothing).aAddr = s.aAddr := rfl
@[simp] theorem State.sendNothing_aQty : (s.sendNothing).aQty = s.aQty := rfl
@[simp] theorem State.sendNothing_aExc : (s.sendNothing).aExc = s.aExc := rfl
@[simp] theorem State.sendNothing_aByte : (s.sendNothing).aByte = s.aByte := rfl
@[simp] theorem State.sendNothing_rId : (s.sendNothing).rId = s.rId := rfl
@[simp] theorem State.sendNothing_rFc : (s.sendNothing).rFc = s.rFc := rfl
@[simp] theorem State.sendNothing_rAddr : (s.sendNothing).rAddr = s.rAddr := rfl
@[simp] theorem State.sendNothing_rQty : (s.sendNothing).rQty = s.rQty := rfl
@[simp] theorem State.sendNothing_rExc : (s.sendNothing).rExc = s.rExc := rfl
@[simp] theorem State.sendNothing_val : (s.sendNothing).val = s.val := rfl
@[simp] theorem State.sendNothing_valN : (s.sendNothing).valN = s.valN := rfl
@[simp] theorem State.sendNothing_status : (s.sendNothing).status = s.status := rfl
@[simp] theorem State.sendNothing_crc : (s.sendNothing).crc = s.crc := rfl
@[simp] theorem State.sendNothing_rxBuf : (s.sendNothing).rxBuf = s.rxBuf := rfl
@[simp] theorem State.sendNothing_rxLen : (s.sendNothing).rxLen = s.rxLen := rfl
@[simp] theorem State.sendNothing_txBuf : (s.sendNothing).txBuf = s.txBuf := rfl
@[simp] theorem State.sendNothing_txLen : (s.sendNothing).txLen = 0 := rfl
@[simp] theorem State.sendNothing_slaveId : (s.sendNothing).slaveId = s.slaveId := rfl
@[simp] theorem State.sendNothing_reqCrcCheck : (s.sendNothing).reqCrcCheck = s.reqCrcCheck := rfl
@[simp] theorem State.sendNothing_regTab : (s.sendNothing).regTab = s.regTab := rfl
@[simp] theorem State.sendNothing_host : (s.sendNothing).host = s.host := rfl
@[simp] theorem State.sendNothing_transport : (s.sendNothing).transport = s.transport := rfl
@[simp] theorem State.sendNothing_written : (s.sendNothing).written = s.written := rfl

@[simp] theorem State.takeException_aId (d : Request) (code : Byte) : (s.takeException d code).aId = s.aId := rfl
@[simp] theorem State.takeException_aFc (d : Request) (code : Byte) : (s.takeException d code).aFc = s.aFc := rfl
@[simp] theorem State.takeException_aAddr (d : Request) (code : Byte) : (s.takeException d code).aAddr = s.aAddr := rfl
@[simp] theorem State.takeException_aQty (d : Request) (code : Byte) : (s.takeException d code).aQty = s.aQty := rfl
@[simp] theorem State.takeException_aExc (d : Request) (code : Byte) : (s.takeException d code).aExc = s.aExc := rfl
@[simp] theorem State.takeException_aByte (d : Request) (code : Byte) : (s.takeException d code).aByte = s.aByte := rfl
@[simp] theorem State.takeException_rId (d : Request) (code : Byte) : (s.takeException d code).rId = s.rId := rfl
@[simp] theorem State.takeException_rFc (d : Request) (code : Byte) : (s.takeException d code).rFc = s.rFc := rfl
@[simp] theorem State.takeException_rAddr (d : Request) (code : Byte) : (s.takeException d code).rAddr = s.rAddr := rfl
@[simp] theorem State.takeException_rQty (d : Request) (code : Byte) : (s.takeException d code).rQty = s.rQty := rfl
@[simp] theorem State.takeException_rExc (d : Request) (code : Byte) : (s.takeException d code).rExc = code := rfl
@[simp] theorem State.takeException_val (d : Request) (code : Byte) : (s.takeException d code).val = s.val := rfl
@[simp] theorem State.takeException_valN (d : Request) (code : Byte) : (s.takeException d code).valN = s.valN := rfl
@[simp] theorem State.takeException_status (d : Request) (code : Byte) : (s.takeException d code).status = .exception := rfl
@[simp] theorem State.takeException_crc (d : Request) (code : Byte) :
    (s.takeException d code).crc = crc16 (exceptionPayload d.id d.fc code) := rfl
@[simp] theorem State.takeException_rxBuf (d : Request) (code : Byte) : (s.takeException d code).rxBuf = s.rxBuf := rfl
@[simp] theorem State.takeException_rxLen (d : Request) (code : Byte) : (s.takeException d code).rxLen = s.rxLen := rfl
@[simp] theorem State.takeException_txBuf (d : Request) (code : Byte) :
    (s.takeException d code).txBuf = Memory.writeBytes s.txBuf 0 (withCrc (exceptionPayload d.id d.fc code)) := rfl
@[simp] theorem State.takeException_txLen (d : Request) (code : Byte) : (s.takeException d code).txLen = 5 := rfl
@[simp] theorem State.takeException_slaveId (d : Request) (code : Byte) : (s.takeException d code).slaveId = s.slaveId := rfl
@[simp] theorem State.takeException_reqCrcCheck (d : Request) (code : Byte) :
    (s.takeException d code).reqCrcCheck = s.reqCrcCheck := rfl
@[simp] theorem State.takeException_regTab (d : Request) (code : Byte) : (s.takeException d code).regTab = s.regTab := rfl
@[simp] theorem State.takeException_host (d : Request) (code : Byte) : (s.takeException d code).host = s.host := rfl
@[simp] theorem State.takeException_transport (d : Request) (code : Byte) :
    (s.takeException d code).transport = s.transport := rfl
@[simp] theorem State.takeException_written (d : Request) (code : Byte) : (s.takeException d code).written = s.written := rfl

@[simp] theorem State.storeRx_aId (rx : List Byte) : (s.storeRx rx).aId = s.aId := rfl
@[simp] theorem State.storeRx_aFc (rx : List Byte) : (s.storeRx rx).aFc = s.aFc := rfl
@[simp] theorem State.storeRx_aAddr (rx : List Byte) : (s.storeRx rx).aAddr = s.aAddr := rfl
@[simp] theorem State.storeRx_aQty (rx : List Byte) : (s.storeRx rx).aQty = s.aQty := rfl
@[simp] theorem State.storeRx_aExc (rx : List Byte) : (s.storeRx rx).aExc = s.aExc := rfl
@[simp] theorem State.storeRx_aByte (rx : List Byte) : (s.storeRx rx).aByte = s.aByte := rfl
@[simp] theorem State.storeRx_rId (rx : List Byte) : (s.storeRx rx).rId = s.rId := rfl
@[simp] theorem State.storeRx_rFc (rx : List Byte) : (s.storeRx rx).rFc = s.rFc := rfl
@[simp] theorem State.storeRx_rAddr (rx : List Byte) : (s.storeRx rx).rAddr = s.rAddr := rfl
@[simp] theorem State.storeRx_rQty (rx : List Byte) : (s.storeRx rx).rQty = s.rQty := rfl
@[simp] theorem State.storeRx_rExc (rx : List Byte) : (s.storeRx rx).rExc = s.rExc := rfl
@[simp] theorem State.storeRx_val (rx : List Byte) : (s.storeRx rx).val = s.val := rfl
@[simp] theorem State.storeRx_valN (rx : List Byte) : (s.storeRx rx).valN = s.valN := rfl
@[simp] theorem State.storeRx_status (rx : List Byte) : (s.storeRx rx).status = s.status := rfl
@[simp] theorem State.storeRx_crc (rx : List Byte) : (s.storeRx rx).crc = s.crc := rfl
@[simp] theorem State.storeRx_rxBuf (rx : List Byte) : (s.storeRx rx).rxBuf = Memory.writeBytes s.rxBuf 0 rx := rfl
@[simp] theorem State.storeRx_rxLen (rx : List Byte) : (s.storeRx rx).rxLen = rx.length := rfl
@[simp] theorem State.storeRx_txBuf (rx : List Byte) : (s.storeRx rx).txBuf = s.txBuf := rfl
@[simp] theorem State.storeRx_txLen (rx : List Byte) : (s.storeRx rx).txLen = s.txLen := rfl
@[simp] theorem State.storeRx_slaveId (rx : List Byte) : (s.storeRx rx).slaveId = s.slaveId := rfl
@[simp] theorem State.storeRx_reqCrcCheck (rx : List Byte) : (s.storeRx rx).reqCrcCheck = s.reqCrcCheck := rfl
@[simp] theorem State.storeRx_regTab (rx : List Byte) : (s.storeRx rx).regTab = s.regTab := rfl
@[simp] theorem State.storeRx_host (rx : List Byte) : (s.storeRx rx).host = s.host := rfl
@[simp] theorem State.storeRx_transport (rx : List Byte) : (s.storeRx rx).transport = s.transport := rfl
@[simp] theorem State.storeRx_written (rx : List Byte) : (s.storeRx rx).written = s.written := rfl

@[simp] theorem State.sendRequest_aId : (s.sendRequest).aId = s.aId := rfl
@[simp] theorem State.sendRequest_aFc : (s.sendRequest).aFc = s.aFc := rfl
@[simp] theorem State.sendRequest_aAddr : (s.sendRequest).aAddr = s.aAddr := rfl
@[simp] theorem State.sendRequest_aQty : (s.sendRequest).aQty = s.aQty := rfl
@[simp] theorem State.sendRequest_aExc : (s.sendRequest).aExc = s.aExc := rfl
@[simp] theorem State.sendRequest_aByte : (s.sendRequest).aByte = s.aByte := rfl
@[simp] theorem State.sendRequest_rId : (s.sendRequest).rId = s.rId := rfl
@[simp] theorem State.sendRequest_rFc : (s.sendRequest).rFc = s.rFc := rfl
@[simp] theorem State.sendRequest_rAddr : (s.sendRequest).rAddr = s.rAddr := rfl
@[simp] theorem State.sendRequest_rQty : (s.sendRequest).rQty = s.rQty := rfl
@[simp] theorem State.sendRequest_rExc : (s.sendRequest).rExc = s.rExc := rfl
@[simp] theorem State.sendRequest_val : (s.sendRequest).val = s.val := rfl
@[simp] theorem State.sendRequest_valN : (s.sendRequest).valN = s.valN := rfl
@[simp] theorem State.sendRequest_status : (s.sendRequest).status = s.status := rfl
@[simp] theorem State.sendRequest_crc :
    (s.sendRequest).crc = crc16 (requestPayload s.aId fcReadHolding s.aAddr s.aQty) := rfl
@[simp] theorem State.sendRequest_rxBuf : (s.sendRequest).rxBuf = s.rxBuf := rfl
@[simp] theorem State.sendRequest_rxLen : (s.sendRequest).rxLen = s.rxLen := rfl
@[simp] theorem State.sendRequest_txBuf :
    (s.sendRequest).txBuf = Memory.writeBytes s.txBuf 0 (withCrc (requestPayload s.aId fcReadHolding s.aAddr s.aQty)) := rfl
@[simp] theorem State.sendRequest_txLen : (s.sendRequest).txLen = 8 := rfl
@[simp] theorem State.sendRequest_slaveId : (s.sendRequest).slaveId = s.slaveId := rfl
@[simp] theorem State.sendRequest_reqCrcCheck : (s.sendRequest).reqCrcCheck = s.reqCrcCheck := rfl
@[simp] theorem State.sendRequest_regTab : (s.sendRequest).regTab = s.regTab := rfl
@[simp] theorem State.sendRequest_host : (s.sendRequest).host = s.host := rfl
@[simp] theorem State.sendRequest_transport : (s.sendRequest).transport = s.transport := rfl
@[simp] theorem State.sendRequest_written : (s.sendRequest).written = s.written := rfl

@[simp] theorem State.sendValues_aId (id fc : Byte) (vs : List Word) : (s.sendValues id fc vs).aId = s.aId := rfl
@[simp] theorem State.sendValues_aFc (id fc : Byte) (vs : List Word) : (s.sendValues id fc vs).aFc = s.aFc := rfl
@[simp] theorem State.sendValues_aAddr (id fc : Byte) (vs : List Word) : (s.sendValues id fc vs).aAddr = s.aAddr := rfl
@[simp] theorem State.sendValues_aQty (id fc : Byte) (vs : List Word) : (s.sendValues id fc vs).aQty = s.aQty := rfl
@[simp] theorem State.sendValues_aExc (id fc : Byte) (vs : List Word) : (s.sendValues id fc vs).aExc = s.aExc := rfl
@[simp] theorem State.sendValues_aByte (id fc : Byte) (vs : List Word) : (s.sendValues id fc vs).aByte = s.aByte := rfl
@[simp] theorem State.sendValues_rId (id fc : Byte) (vs : List Word) : (s.sendValues id fc vs).rId = s.rId := rfl
@[simp] theorem State.sendValues_rFc (id fc : Byte) (vs : List Word) : (s.sendValues id fc vs).rFc = s.rFc := rfl
@[simp] theorem State.sendValues_rAddr (id fc : Byte) (vs : List Word) : (s.sendValues id fc vs).rAddr = s.rAddr := rfl
@[simp] theorem State.sendValues_rQty (id fc : Byte) (vs : List Word) : (s.sendValues id fc vs).rQty = s.rQty := rfl
@[simp] theorem State.sendValues_rExc (id fc : Byte) (vs : List Word) : (s.sendValues id fc vs).rExc = s.rExc := rfl
@[simp] theorem State.sendValues_val (id fc : Byte) (vs : List Word) : (s.sendValues id fc vs).val = s.val := rfl
@[simp] theorem State.sendValues_valN (id fc : Byte) (vs : List Word) : (s.sendValues id fc vs).valN = s.valN := rfl
@[simp] theorem State.sendValues_status (id fc : Byte) (vs : List Word) : (s.sendValues id fc vs).status = s.status := rfl
@[simp] theorem State.sendValues_crc (id fc : Byte) (vs : List Word) :
    (s.sendValues id fc vs).crc = crc16 (responsePayload id fc (BitVec.ofNat 8 (2 * vs.length)) (bytesOfWords vs)) := rfl
@[simp] theorem State.sendValues_rxBuf (id fc : Byte) (vs : List Word) : (s.sendValues id fc vs).rxBuf = s.rxBuf := rfl
@[simp] theorem State.sendValues_rxLen (id fc : Byte) (vs : List Word) : (s.sendValues id fc vs).rxLen = s.rxLen := rfl
@[simp] theorem State.sendValues_txBuf (id fc : Byte) (vs : List Word) :
    (s.sendValues id fc vs).txBuf = Memory.writeBytes s.txBuf 0
      (withCrc (responsePayload id fc (BitVec.ofNat 8 (2 * vs.length)) (bytesOfWords vs))) := rfl
@[simp] theorem State.sendValues_txLen (id fc : Byte) (vs : List Word) :
    (s.sendValues id fc vs).txLen = (withCrc (responsePayload id fc (BitVec.ofNat 8 (2 * vs.length)) (bytesOfWords vs))).length := rfl
@[simp] theorem State.sendValues_slaveId (id fc : Byte) (vs : List Word) : (s.sendValues id fc vs).slaveId = s.slaveId := rfl
@[simp] theorem State.sendValues_reqCrcCheck (id fc : Byte) (vs : List Word) :
    (s.sendValues id fc vs).reqCrcCheck = s.reqCrcCheck := rfl
@[simp] theorem State.sendValues_regTab (id fc : Byte) (vs : List Word) : (s.sendValues id fc vs).regTab = s.regTab := rfl
@[simp] theorem State.sendValues_host (id fc : Byte) (vs : List Word) : (s.sendValues id fc vs).host = s.host := rfl
@[simp] theorem State.sendValues_transport (id fc : Byte) (vs : List Word) :
    (s.sendValues id fc vs).transport = s.transport := rfl
@[simp] theorem State.sendValues_written (id fc : Byte) (vs : List Word) : (s.sendValues id fc vs).written = s.written := rfl

@[simp] theorem State.exchangeFrame_aId : (s.exchangeFrame).aId = s.aId := rfl
@[simp] theorem State.exchangeFrame_aFc : (s.exchangeFrame).aFc = s.aFc := rfl
@[simp] theorem State.exchangeFrame_aAddr : (s.exchangeFrame).aAddr = s.aAddr := rfl
@[simp] theorem State.exchangeFrame_aQty : (s.exchangeFrame).aQty = s.aQty := rfl
@[simp] theorem State.exchangeFrame_aExc : (s.exchangeFrame).aExc = s.aExc := rfl
@[simp] theorem State.exchangeFrame_aByte : (s.exchangeFrame).aByte = s.aByte := rfl
@[simp] theorem State.exchangeFrame_rId : (s.exchangeFrame).rId = s.rId := rfl
@[simp] theorem State.exchangeFrame_rFc : (s.exchangeFrame).rFc = s.rFc := rfl
@[simp] theorem State.exchangeFrame_rAddr : (s.exchangeFrame).rAddr = s.rAddr := rfl
@[simp] theorem State.exchangeFrame_rQty : (s.exchangeFrame).rQty = s.rQty := rfl
@[simp] theorem State.exchangeFrame_rExc : (s.exchangeFrame).rExc = s.rExc := rfl
@[simp] theorem State.exchangeFrame_val : (s.exchangeFrame).val = s.val := rfl
@[simp] theorem State.exchangeFrame_valN : (s.exchangeFrame).valN = s.valN := rfl
@[simp] theorem State.exchangeFrame_status : (s.exchangeFrame).status = s.status := rfl
@[simp] theorem State.exchangeFrame_crc : (s.exchangeFrame).crc = s.crc := rfl
@[simp] theorem State.exchangeFrame_rxBuf :
    (s.exchangeFrame).rxBuf = Memory.writeBytes s.rxBuf 0 s.transport.nextAnswer := rfl
@[simp] theorem State.exchangeFrame_rxLen : (s.exchangeFrame).rxLen = s.transport.nextAnswer.length := rfl
@[simp] theorem State.exchangeFrame_txBuf : (s.exchangeFrame).txBuf = s.txBuf := rfl
@[simp] theorem State.exchangeFrame_txLen : (s.exchangeFrame).txLen = s.txLen := rfl
@[simp] theorem State.exchangeFrame_slaveId : (s.exchangeFrame).slaveId = s.slaveId := rfl
@[simp] theorem State.exchangeFrame_reqCrcCheck : (s.exchangeFrame).reqCrcCheck = s.reqCrcCheck := rfl
@[simp] theorem State.exchangeFrame_regTab : (s.exchangeFrame).regTab = s.regTab := rfl
@[simp] theorem State.exchangeFrame_host : (s.exchangeFrame).host = s.host := rfl
@[simp] theorem State.exchangeFrame_transport :
    (s.exchangeFrame).transport = s.transport.exchange (withCrc (requestPayload s.aId fcReadHolding s.aAddr s.aQty)) := rfl
@[simp] theorem State.exchangeFrame_written : (s.exchangeFrame).written = s.written := rfl

@[simp] theorem State.applyResponse_aId (r : Response) :
    (s.applyResponse r).aId = s.aId := by cases r <;> simp [State.applyResponse]
@[simp] theorem State.applyResponse_aFc (r : Response) :
    (s.applyResponse r).aFc = s.aFc := by cases r <;> simp [State.applyResponse]
@[simp] theorem State.applyResponse_aAddr (r : Response) :
    (s.applyResponse r).aAddr = s.aAddr := by cases r <;> simp [State.applyResponse]
@[simp] theorem State.applyResponse_aQty (r : Response) :
    (s.applyResponse r).aQty = s.aQty := by cases r <;> simp [State.applyResponse]
@[simp] theorem State.applyResponse_aExc (r : Response) :
    (s.applyResponse r).aExc = s.aExc := by cases r <;> simp [State.applyResponse]
@[simp] theorem State.applyResponse_aByte (r : Response) :
    (s.applyResponse r).aByte = s.aByte := by cases r <;> simp [State.applyResponse]
@[simp] theorem State.applyResponse_rId (r : Response) :
    (s.applyResponse r).rId = s.rId := by cases r <;> simp [State.applyResponse]
@[simp] theorem State.applyResponse_rFc (r : Response) :
    (s.applyResponse r).rFc = s.rFc := by cases r <;> simp [State.applyResponse]
@[simp] theorem State.applyResponse_rAddr (r : Response) :
    (s.applyResponse r).rAddr = s.rAddr := by cases r <;> simp [State.applyResponse]
@[simp] theorem State.applyResponse_rQty (r : Response) :
    (s.applyResponse r).rQty = s.rQty := by cases r <;> simp [State.applyResponse]
@[simp] theorem State.applyResponse_rxBuf (r : Response) :
    (s.applyResponse r).rxBuf = s.rxBuf := by cases r <;> simp [State.applyResponse]
@[simp] theorem State.applyResponse_rxLen (r : Response) :
    (s.applyResponse r).rxLen = s.rxLen := by cases r <;> simp [State.applyResponse]
@[simp] theorem State.applyResponse_txBuf (r : Response) :
    (s.applyResponse r).txBuf = s.txBuf := by cases r <;> simp [State.applyResponse]
@[simp] theorem State.applyResponse_txLen (r : Response) :
    (s.applyResponse r).txLen = s.txLen := by cases r <;> simp [State.applyResponse]
@[simp] theorem State.applyResponse_slaveId (r : Response) :
    (s.applyResponse r).slaveId = s.slaveId := by cases r <;> simp [State.applyResponse]
@[simp] theorem State.applyResponse_reqCrcCheck (r : Response) :
    (s.applyResponse r).reqCrcCheck = s.reqCrcCheck := by cases r <;> simp [State.applyResponse]
@[simp] theorem State.applyResponse_regTab (r : Response) :
    (s.applyResponse r).regTab = s.regTab := by cases r <;> simp [State.applyResponse]
@[simp] theorem State.applyResponse_host (r : Response) :
    (s.applyResponse r).host = s.host := by cases r <;> simp [State.applyResponse]
@[simp] theorem State.applyResponse_transport (r : Response) :
    (s.applyResponse r).transport = s.transport := by cases r <;> simp [State.applyResponse]

@[simp] theorem State.classify_aId (rx : List Byte) :
    (s.classify rx).aId = s.aId := by
  unfold State.classify; split <;> simp
@[simp] theorem State.classify_aFc (rx : List Byte) :
    (s.classify rx).aFc = s.aFc := by
  unfold State.classify; split <;> simp
@[simp] theorem State.classify_aAddr (rx : List Byte) :
    (s.classify rx).aAddr = s.aAddr := by
  unfold State.classify; split <;> simp
@[simp] theorem State.classify_aQty (rx : List Byte) :
    (s.classify rx).aQty = s.aQty := by
  unfold State.classify; split <;> simp
@[simp] theorem State.classify_aExc (rx : List Byte) :
    (s.classify rx).aExc = s.aExc := by
  unfold State.classify; split <;> simp
@[simp] theorem State.classify_aByte (rx : List Byte) :
    (s.classify rx).aByte = s.aByte := by
  unfold State.classify; split <;> simp
@[simp] theorem State.classify_rId (rx : List Byte) :
    (s.classify rx).rId = s.rId := by
  unfold State.classify; split <;> simp
@[simp] theorem State.classify_rFc (rx : List Byte) :
    (s.classify rx).rFc = s.rFc := by
  unfold State.classify; split <;> simp
@[simp] theorem State.classify_rAddr (rx : List Byte) :
    (s.classify rx).rAddr = s.rAddr := by
  unfold State.classify; split <;> simp
@[simp] theorem State.classify_rQty (rx : List Byte) :
    (s.classify rx).rQty = s.rQty := by
  unfold State.classify; split <;> simp
@[simp] theorem State.classify_rxBuf (rx : List Byte) :
    (s.classify rx).rxBuf = s.rxBuf := by
  unfold State.classify; split <;> simp
@[simp] theorem State.classify_rxLen (rx : List Byte) :
    (s.classify rx).rxLen = s.rxLen := by
  unfold State.classify; split <;> simp
@[simp] theorem State.classify_txBuf (rx : List Byte) :
    (s.classify rx).txBuf = s.txBuf := by
  unfold State.classify; split <;> simp
@[simp] theorem State.classify_txLen (rx : List Byte) :
    (s.classify rx).txLen = s.txLen := by
  unfold State.classify; split <;> simp
@[simp] theorem State.classify_slaveId (rx : List Byte) :
    (s.classify rx).slaveId = s.slaveId := by
  unfold State.classify; split <;> simp
@[simp] theorem State.classify_reqCrcCheck (rx : List Byte) :
    (s.classify rx).reqCrcCheck = s.reqCrcCheck := by
  unfold State.classify; split <;> simp
@[simp] theorem State.classify_regTab (rx : List Byte) :
    (s.classify rx).regTab = s.regTab := by
  unfold State.classify; split <;> simp
@[simp] theorem State.classify_host (rx : List Byte) :
    (s.classify rx).host = s.host := by
  unfold State.classify; split <;> simp
@[simp] theorem State.classify_transport (rx : List Byte) :
    (s.classify rx).transport = s.transport := by
  unfold State.classify; split <;> simp

end Sys2Proof.Machine
end

