-- ==== Sys2Proof/Laws/Operands.lean ====
section
/-! SUPPORT. What the operand forms and the parses can answer: one lemma per case, cited instead of unfolding them. -/

namespace Sys2Proof.Machine

theorem State.rxBytes_eq_ok {s : State} {n : Nat} {B : List Byte} :
    s.rxBytes n = .ok B ↔ B.length = n ∧ ∀ k, k < n → Memory.read s.rxBuf k = B[k]? := by
  simp [State.rxBytes, Memory.readBytes_eq_ok]

theorem State.rxBytes_error {s : State} {n i : Nat} (h : s.rxBytes n = .error i) : i < n ∧ Memory.read s.rxBuf i = none := by
  have := Memory.readBytes_eq_error h
  exact ⟨by omega, this.2.2⟩

theorem State.rxBytes_storeRx (s : State) (rx : List Byte) (n : Nat) (h : n ≤ rx.length) :
    (s.storeRx rx).rxBytes n = .ok (rx.take n) := Memory.readBytes_writeBytes_take _ _ _ h

/-! ### The Register Table (R33, R100) -/

theorem State.rtRead_none {s : State} {a n : Word} : s.rtRead a n = none ↔ s.tableLen < a.toNat + n.toNat := by
  simp [State.rtRead]

theorem State.rtRead_some {s : State} {a n : Word} {vs : List Word} :
    s.rtRead a n = some vs ↔ a.toNat + n.toNat ≤ s.tableLen ∧ vs = s.memRead a.toNat n.toNat := by
  simp only [State.rtRead]
  split
  · simp; omega
  · simp only [Option.some.injEq]
    exact ⟨fun h => ⟨by omega, h.symm⟩, fun h => h.2.symm⟩

/-- An in-range read moves exactly the registers asked for (R33). -/
theorem State.memRead_spec {s : State} {a n : Nat} (h : a + n ≤ s.tableLen) :
    (s.memRead a n).length = n ∧ ∀ i (hi : i < n), (s.memRead a n)[i]? = some (s.regTab[a + i]'(by simp only [State.tableLen] at h; omega)) := by
  simp only [State.tableLen] at h
  constructor
  · simp [State.memRead]; omega
  · intro i hi
    simp [State.memRead, hi, show a + i < s.regTab.length by omega]

theorem State.rtRead_length {s : State} {a n : Word} {vs : List Word} (h : s.rtRead a n = some vs) : vs.length = n.toNat := by
  obtain ⟨h1, rfl⟩ := State.rtRead_some.1 h
  exact (State.memRead_spec h1).1

/-- The values the value file holds when its count is in range (R12). -/
theorem State.valSeq_length {s : State} (h : s.valN ≤ valCap) : s.valSeq.length = s.valN := by
  simp only [valCap] at h
  simp [State.valSeq]; omega

theorem State.valSeq_get {s : State} (i : Nat) (h : i < s.valSeq.length) :
    ∃ hi : i < 127, s.valSeq[i] = s.val[i] := by
  have hi : i < 127 := by simp [State.valSeq] at h; omega
  exact ⟨hi, by simp [State.valSeq]⟩

/-! ### The parse of a request (R91) -/

theorem State.parseRequest_short {s : State} (h : s.rxLen < 8) : s.parseRequest = .ok (.malformed none) := by
  simp [State.parseRequest, reqLen, h]

theorem State.parseRequest_unchecked {s : State} {B : List Byte} (h : 8 ≤ s.rxLen) (hc : s.reqCrcCheck = false)
    (hB : s.rxBytes 6 = .ok B) : s.parseRequest = .ok (.parsed (requestOf B) none) := by
  simp [State.parseRequest, reqLen, Nat.not_lt.2 h, hc, hB]

theorem State.parseRequest_checked {s : State} {B : List Byte} (h : 8 ≤ s.rxLen) (hc : s.reqCrcCheck = true)
    (hB : s.rxBytes 8 = .ok B) :
    s.parseRequest =
      if crcOk B 6 then .ok (.parsed (requestOf B) (some (crc16 (B.take 6)))) else .ok (.malformed (some (crc16 (B.take 6)))) := by
  simp [State.parseRequest, reqLen, Nat.not_lt.2 h, hc, hB]

theorem State.parseRequest_error {s : State} {i : Nat} (h : s.parseRequest = .error i) :
    i < s.rxLen ∧ Memory.read s.rxBuf i = none := by
  simp only [State.parseRequest] at h
  split at h
  · simp at h
  · rename_i hL
    simp only [reqLen] at hL
    split at h
    · split at h
      · rename_i hh
        simp only [reqLen, Except.error.injEq] at h hh
        subst h
        have := State.rxBytes_error hh
        exact ⟨by omega, this.2⟩
      · split at h <;> simp at h
    · split at h
      · rename_i hh
        simp only [Except.error.injEq] at h
        subst h
        have := State.rxBytes_error hh
        exact ⟨by omega, this.2⟩
      · simp at h

/-- A malformed request is too short, or has a wrong CRC where the check is on. -/
theorem State.parseRequest_malformed {s : State} {c : Option Word} (h : s.parseRequest = .ok (.malformed c)) :
    (s.rxLen < 8 ∧ c = none) ∨
    (8 ≤ s.rxLen ∧ s.reqCrcCheck = true ∧ ∃ B, s.rxBytes 8 = .ok B ∧ crcOk B 6 = false ∧ c = some (crc16 (B.take 6))) := by
  by_cases hL : s.rxLen < 8
  · rw [State.parseRequest_short hL] at h
    exact .inl ⟨hL, by simpa using h.symm⟩
  · simp only [State.parseRequest, reqLen, hL, if_false] at h
    split at h
    · rename_i hc
      split at h
      · simp at h
      · rename_i B hB
        split at h
        · simp at h
        · rename_i hk
          exact .inr ⟨by omega, hc, B, hB, by simpa using hk, by simpa using h.symm⟩
    · split at h <;> simp at h

/-- A parsed request has its fields in the first six bytes, and the right CRC after them where the check is on. -/
theorem State.parseRequest_parsed {s : State} {d : Request} {c : Option Word} (h : s.parseRequest = .ok (.parsed d c)) :
    8 ≤ s.rxLen ∧
    ((s.reqCrcCheck = true ∧ ∃ B, s.rxBytes 8 = .ok B ∧ crcOk B 6 = true ∧ d = requestOf B ∧ c = some (crc16 (B.take 6))) ∨
     (s.reqCrcCheck = false ∧ ∃ B, s.rxBytes 6 = .ok B ∧ d = requestOf B ∧ c = none)) := by
  by_cases hL : s.rxLen < 8
  · rw [State.parseRequest_short hL] at h
    simp at h
  · refine ⟨by omega, ?_⟩
    simp only [State.parseRequest, reqLen, hL, if_false] at h
    split at h
    · rename_i hc
      split at h
      · simp at h
      · rename_i B hB
        split at h
        · rename_i hk
          simp only [Except.ok.injEq, RequestParse.parsed.injEq] at h
          exact .inl ⟨hc, B, hB, hk, h.1.symm, h.2.symm⟩
        · simp at h
    · rename_i hc
      split at h
      · simp at h
      · rename_i B hB
        simp only [Except.ok.injEq, RequestParse.parsed.injEq] at h
        exact .inr ⟨by simpa using hc, B, hB, h.1.symm, h.2.symm⟩

/-- The parse reads only the receive buffer and the check bit. -/
theorem State.parseRequest_congr {s t : State} (h1 : s.rxBuf = t.rxBuf) (h2 : s.rxLen = t.rxLen)
    (h3 : s.reqCrcCheck = t.reqCrcCheck) : s.parseRequest = t.parseRequest := by
  simp only [State.parseRequest, State.rxBytes, h1, h2, h3]

/-! ### The parse of a response (R92) -/

/-- When every byte of the buffer holds a value, the operation's parse is `dec_rsp` of the buffer (R92, R95). -/
theorem State.parseResponse_of_readable {s : State} {B : List Byte} (hB : s.rxBytes s.rxLen = .ok B) :
    s.parseResponse = .ok (decRsp B) := by
  obtain ⟨hl, hr⟩ := State.rxBytes_eq_ok.1 hB
  simp only [State.parseResponse, decRsp]
  by_cases h5 : s.rxLen < rspMinLen
  · simp [hl, h5]
  · simp only [rspMinLen] at h5
    have h1 : Memory.read s.rxBuf 1 = some (byteAt B 1) := by
      rw [hr 1 (by omega), getElem?_eq_byteAt B 1 (by omega)]
    have h2 : Memory.read s.rxBuf 2 = some (byteAt B 2) := by
      rw [hr 2 (by omega), getElem?_eq_byteAt B 2 (by omega)]
    rw [if_neg (by simp only [rspMinLen]; omega), if_neg (by simp only [rspMinLen]; omega), h1, h2]
    simp only [hB]
    by_cases hm : (byteAt B 1).msb
    · simp [hm, shorterThanByteCount]
    · simp only [Bool.not_eq_true] at hm
      simp only [hm, hl, Bool.false_eq_true, if_false]
      split <;> rfl

theorem State.parseResponse_short {s : State} (h : s.rxLen < 5) : s.parseResponse = .ok (.malformed none) := by
  simp [State.parseResponse, rspMinLen, h]

theorem State.parseResponse_error {s : State} {i : Nat} (h : s.parseResponse = .error i) :
    i < s.rxLen ∧ Memory.read s.rxBuf i = none := by
  simp only [State.parseResponse] at h
  split at h
  · simp at h
  · rename_i hL
    simp only [rspMinLen] at hL
    split at h
    · rename_i h1
      simp only [Except.error.injEq] at h
      subst h
      exact ⟨by omega, h1⟩
    · rename_i b1 h1
      split at h
      · rename_i h2
        simp only [Except.error.injEq] at h
        subst h
        refine ⟨by omega, ?_⟩
        split at h2
        · simp at h2
        · exact h2
      · split at h
        · simp at h
        · split at h
          · rename_i hh
            simp only [Except.error.injEq] at h
            subst h
            exact State.rxBytes_error hh
          · simp at h

/-- Every answer of the parse is `malformed`, or comes from steps 3 to 5 on the whole buffer. -/
theorem State.parseResponse_ok {s : State} {r : Response} (h : s.parseResponse = .ok r) :
    r = .malformed none ∨ ∃ B, s.rxBytes s.rxLen = .ok B ∧ r = decRspFrom3 B := by
  simp only [State.parseResponse] at h
  split at h
  · exact .inl (by simpa using h.symm)
  · split at h
    · simp at h
    · split at h
      · simp at h
      · split at h
        · exact .inl (by simpa using h.symm)
        · split at h
          · simp at h
          · rename_i B hB
            exact .inr ⟨B, hB, by simpa using h.symm⟩

/-- A response has at most 127 values (R93). -/
theorem decRspFrom3_values_length {B : List Byte} {vs : List Word} {c : Word} (h : decRspFrom3 B = .values vs c) :
    vs.length ≤ valCap := by
  simp only [decRspFrom3] at h
  split at h
  · simp at h
  · split at h
    · simp at h
    · simp only [Response.values.injEq] at h
      obtain ⟨rfl, -⟩ := h
      have := (byteAt B 2).isLt
      simp only [wordsOfBytes_length, valCap]; omega

theorem decRsp_cases (B : List Byte) : decRsp B = .malformed none ∨ decRsp B = decRspFrom3 B := by
  unfold decRsp
  split
  · exact .inl rfl
  · split
    · exact .inl rfl
    · exact .inr rfl

theorem decRsp_values_length {B : List Byte} {vs : List Word} {c : Word} (h : decRsp B = .values vs c) :
    vs.length ≤ valCap := by
  rcases decRsp_cases B with h' | h'
  · rw [h'] at h; simp at h
  · exact decRspFrom3_values_length (h'.symm.trans h)

theorem State.parseResponse_congr {s t : State} (h1 : s.rxBuf = t.rxBuf) (h2 : s.rxLen = t.rxLen) :
    s.parseResponse = t.parseResponse := by
  simp only [State.parseResponse, State.rxBytes, h1, h2]

end Sys2Proof.Machine
end

