-- ==== Sys2Proof/Laws/Exec.lean ====
section
/-! SUPPORT. What each meaning can do: if it answers a next state, one of these cases holds; and what its stops are. Statements about
all instructions are proved from these and never unfold a meaning again. -/

namespace Sys2Proof.Machine

/-! ### Next states -/

theorem execCrc16_next {s t : State} (h : execCrc16 s = .next t) :
    ∃ B, s.rxBytes s.rxLen = .ok B ∧ t = State.raise { s with crc := crc16 B } .ok := by
  unfold execCrc16 at h
  split at h
  · simp at h
  · rename_i B hB; exact ⟨B, hB, by simpa using h.symm⟩

theorem execEncRsp_next {s t : State} (h : execEncRsp s = .next t) :
    s.valN ≤ valCap ∧ t = (s.sendValues s.aId s.aFc s.valSeq).raise .ok := by
  unfold execEncRsp at h
  split at h
  · simp at h
  · exact ⟨by omega, by simpa using h.symm⟩

theorem execDecReq_next {s t : State} (h : execDecReq s = .next t) :
    (∃ c, s.parseRequest = .ok (.malformed c) ∧ t = (s.writeCrc c).raise .malformed) ∨
    (∃ d c, s.parseRequest = .ok (.parsed d c) ∧ t = ((s.writeCrc c).writeRequest d).raise .ok) := by
  unfold execDecReq at h
  split at h
  · simp at h
  · rename_i c hc; exact .inl ⟨c, hc, by simpa using h.symm⟩
  · rename_i d c hc; exact .inr ⟨d, c, hc, by simpa using h.symm⟩

theorem execDecRsp_next {s t : State} (h : execDecRsp s = .next t) :
    ∃ r, s.parseResponse = .ok r ∧ t = s.applyResponse r := by
  unfold execDecRsp at h
  split at h
  · simp at h
  · rename_i r hr; exact ⟨r, hr, by simpa using h.symm⟩

theorem execRtRead_next {s t : State} (h : execRtRead s = .next t) :
    (s.tableLen < s.aAddr.toNat + s.aQty.toNat ∧ t = s.raise .outOfRange) ∨
    (∃ vs, s.rtRead s.aAddr s.aQty = some vs ∧ vs.length ≤ valCap ∧ t = (s.writeVals vs).raise .ok) := by
  unfold execRtRead at h
  split at h
  · rename_i hr; exact .inl ⟨State.rtRead_none.1 hr, by simpa using h.symm⟩
  · rename_i vs hr
    split at h
    · simp at h
    · exact .inr ⟨vs, hr, by rw [State.rtRead_length hr]; omega, by simpa using h.symm⟩

/-- The three selections of the multiplexer (R106, rows 2 to 5) as next states. -/
theorem State.answer_next {u t : State} {d : Request} (h : u.answer d = .next t) :
    (u.select d = .notAddressed ∧ t = u.sendNothing.raise .notAddressed) ∨
    (∃ code, u.select d = .exception code ∧ (code = 1 ∨ code = 2) ∧ t = u.takeException d code) ∨
    (∃ vs, u.select d = .data vs ∧ vs.length = d.qty.toNat ∧ vs.length ≤ valCap ∧
      t = ((u.writeVals vs).sendValues d.id fcReadHolding vs).raise .ok) := by
  unfold State.answer at h
  split at h
  · rename_i hs; exact .inl ⟨hs, by simpa using h.symm⟩
  · rename_i code hs
    refine .inr (.inl ⟨code, hs, ?_, by simpa using h.symm⟩)
    unfold State.select at hs
    split at hs
    · simp at hs
    · split at hs
      · left; simpa [excIllegalFunction] using hs.symm
      · split at hs
        · right; simpa [excIllegalDataAddress] using hs.symm
        · simp at hs
  · rename_i vs hs
    split at h
    · simp at h
    · refine .inr (.inr ⟨vs, hs, ?_, ?_, by simpa using h.symm⟩)
      all_goals
        unfold State.select at hs
        split at hs
        · simp at hs
        · split at hs
          · simp at hs
          · split at hs
            · simp at hs
            · rename_i vs' hr
              simp only [Select.data.injEq] at hs
              subst hs
              have := State.rtRead_length hr
              omega

/-- The responder's next states: malformed, or an answer to the request it parsed. -/
theorem State.serveRequest_next {s t : State} (h : s.serveRequest = .next t) :
    (∃ c, s.parseRequest = .ok (.malformed c) ∧ t = (s.writeCrc c).sendNothing.raise .malformed) ∨
    (∃ d c, s.parseRequest = .ok (.parsed d c) ∧ ((s.writeCrc c).writeRequest d).answer d = .next t) := by
  unfold State.serveRequest at h
  split at h
  · simp at h
  · rename_i c hc; exact .inl ⟨c, hc, by simpa using h.symm⟩
  · rename_i d c hc; exact .inr ⟨d, c, hc, h⟩

theorem Transport.overruns_iff (t : Transport) : t.overruns = true ↔ Config.bufCap < t.nextAnswer.length := by
  unfold Transport.overruns Transport.nextAnswer
  cases t.answers <;> simp

/-- `QUERY` by the length of the next answer, wherever that comes from. -/
theorem execQuery_eq (s : State) :
    execQuery s =
      if Config.bufCap < s.transport.nextAnswer.length then .refused (.bufferOverrun s.transport.nextAnswer.length)
      else .next (s.sendRequest.exchangeFrame.classify s.transport.nextAnswer) := by
  unfold execQuery
  by_cases h : Config.bufCap < s.transport.nextAnswer.length
  · rw [if_pos ((Transport.overruns_iff _).2 h), if_pos h]
  · rw [if_neg (fun e => h ((Transport.overruns_iff _).1 e)), if_neg h]

theorem execQuery_next {s t : State} (h : execQuery s = .next t) :
    s.transport.nextAnswer.length ≤ Config.bufCap ∧
      t = s.sendRequest.exchangeFrame.classify s.transport.nextAnswer := by
  rw [execQuery_eq] at h
  split at h
  · simp at h
  · exact ⟨by omega, by simpa using h.symm⟩

theorem State.receiveFrame_next {s t : State} {dir : Direction} {bytes : List Byte}
    (h : s.receiveFrame dir bytes = .next t) :
    bytes.length ≤ Config.bufCap ∧
      ((dir = .request ∧ (s.storeRx bytes).serveRequest = .next t) ∨ (dir = .response ∧ execDecRsp (s.storeRx bytes) = .next t)) := by
  unfold State.receiveFrame at h
  split at h
  · simp at h
  · refine ⟨by omega, ?_⟩
    cases dir
    · exact .inl ⟨rfl, h⟩
    · exact .inr ⟨rfl, h⟩

/-! ### A received frame, whole in the buffer -/

theorem State.receiveFrame_request (s : State) {bytes : List Byte} (h : bytes.length ≤ Config.bufCap) :
    s.receiveFrame .request bytes = (s.storeRx bytes).serveRequest := by
  simp [State.receiveFrame, Nat.not_lt.2 h, execRespond]

theorem State.receiveFrame_response (s : State) {bytes : List Byte} (h : bytes.length ≤ Config.bufCap) :
    s.receiveFrame .response bytes = .next ((s.storeRx bytes).applyResponse (decRsp bytes)) := by
  have hp : (s.storeRx bytes).parseResponse = .ok (decRsp bytes) :=
    State.parseResponse_of_readable (by
      rw [State.storeRx_rxLen, State.rxBytes_storeRx _ _ _ (Nat.le_refl _), List.take_length])
  simp [State.receiveFrame, Nat.not_lt.2 h, execDecRsp, hp]

/-- `BUFCAP` is at least 259 (R4). -/
theorem bufCap_ge : 259 ≤ Config.bufCap := Nat.le_add_left _ _

end Sys2Proof.Machine

namespace Sys2Proof

open Sys2Proof.Machine

/-! ### Every frame row is its encoding, received (log 7) -/

theorem exec_frameReqReadHolding (id : Byte) (addr qty : Word) (l h : Byte) (s : State) :
    exec (.frameReqReadHolding id addr qty l h) s = s.receiveFrame .request (bytesReqReadHolding id addr qty l h) := rfl

theorem exec_frameReqOtherFunction (id fc : Byte) (addr qty : Word) (l h : Byte) (s : State) :
    exec (.frameReqOtherFunction id fc addr qty l h) s = s.receiveFrame .request (bytesReqOtherFunction id fc addr qty l h) := rfl

theorem exec_frameRspNormal (id : Byte) (low : BitVec 7) (n : Byte) (data : List Byte) (l h : Byte) (s : State) :
    exec (.frameRspNormal id low n data l h) s = s.receiveFrame .response (bytesRspNormal id low n data l h) := rfl

theorem exec_frameRspException (id : Byte) (low : BitVec 7) (code l h : Byte) (s : State) :
    exec (.frameRspException id low code l h) s = s.receiveFrame .response (bytesRspException id low code l h) := rfl

end Sys2Proof
end

