-- ==== Sys2Proof/Laws/PerInstr.lean ====
section
/-! SUPPORT. Statements about every instruction as syntax, one lemma per constructor: `TableRow`, that the encoding of a well-formed
instruction lies in its row of spec/opcode_table.json. -/

namespace Sys2Proof.Laws.TableRow

/-- What spec/opcode_table.json fixes of a row: an `OP` code, or a frame's direction, its length, and the bits of byte 1 under a mask. -/
inductive Row where
  | op (code : BitVec 4)
  | frame (dir : Direction) (length : Nat) (mask value : Byte)
  deriving DecidableEq, Repr

/-- The row of an instruction, by its `match` and `mask` in the table. -/
def rowOf : Instr → Row
  | .crcInit => .op 0x1
  | .crcByte => .op 0x2
  | .crc16 => .op 0x3
  | .encReq => .op 0x4
  | .encExc => .op 0x5
  | .encRsp => .op 0x6
  | .decReq => .op 0x7
  | .decRsp => .op 0x8
  | .rtRead => .op 0x9
  | .respond => .op 0xA
  | .query => .op 0xB
  | .reservedOp0 => .op 0x0
  | .reservedOpC => .op 0xC
  | .reservedOpD => .op 0xD
  | .reservedOpE => .op 0xE
  | .reservedOpF => .op 0xF
  | .frameReqReadHolding _ _ _ _ _ => .frame .request 8 0xFF 0x03
  | .frameReqOtherFunction _ _ _ _ _ _ => .frame .request 8 0x00 0x00
  | .frameRspNormal _ _ n _ _ _ => .frame .response (5 + n.toNat) 0x80 0x00
  | .frameRspException _ _ _ _ _ => .frame .response 5 0x80 0x80

/-- A command lies in a row. -/
def Row.holds : Row → Command → Prop
  | .op code, c => c = .op code
  | .frame dir length mask value, c => ∃ B, c = .frame dir B ∧ B.length = length ∧ byteAt B 1 &&& mask = value

/-- The encoding of a well-formed instruction lies in its row. -/
def Statement (i : Instr) : Prop := i.wellFormed = true → (rowOf i).holds (encode i)

theorem crcInit : Statement .crcInit := fun _ => rfl
theorem crcByte : Statement .crcByte := fun _ => rfl
theorem crc16 : Statement .crc16 := fun _ => rfl
theorem encReq : Statement .encReq := fun _ => rfl
theorem encExc : Statement .encExc := fun _ => rfl
theorem encRsp : Statement .encRsp := fun _ => rfl
theorem decReq : Statement .decReq := fun _ => rfl
theorem decRsp : Statement .decRsp := fun _ => rfl
theorem rtRead : Statement .rtRead := fun _ => rfl
theorem respond : Statement .respond := fun _ => rfl
theorem query : Statement .query := fun _ => rfl
theorem reservedOp0 : Statement .reservedOp0 := fun _ => rfl
theorem reservedOpC : Statement .reservedOpC := fun _ => rfl
theorem reservedOpD : Statement .reservedOpD := fun _ => rfl
theorem reservedOpE : Statement .reservedOpE := fun _ => rfl
theorem reservedOpF : Statement .reservedOpF := fun _ => rfl

theorem frameReqReadHolding (slaveId : Byte) (startAddress quantity : Word) (crcLo crcHi : Byte) :
    Statement (.frameReqReadHolding slaveId startAddress quantity crcLo crcHi) := by
  refine fun _ => ⟨_, rfl, rfl, ?_⟩
  show fcReadHolding &&& 0xFF = 0x03
  decide

theorem frameReqOtherFunction (slaveId functionCode : Byte) (startAddress quantity : Word) (crcLo crcHi : Byte) :
    Statement (.frameReqOtherFunction slaveId functionCode startAddress quantity crcLo crcHi) :=
  fun _ => ⟨_, rfl, rfl, by simp⟩

theorem frameRspNormal (slaveId : Byte) (functionLow : BitVec 7) (byteCount : Byte) (data : List Byte) (crcLo crcHi : Byte) :
    Statement (.frameRspNormal slaveId functionLow byteCount data crcLo crcHi) := by
  intro h
  refine ⟨_, rfl, ?_, ?_⟩
  · simp only [Instr.wellFormed, beq_iff_eq] at h
    simp [bytesRspNormal, responsePayload, h]; omega
  · show normalFunctionByte functionLow &&& 0x80 = 0x00
    clear h
    revert functionLow; decide

theorem frameRspException (slaveId : Byte) (functionLow : BitVec 7) (exceptionCode crcLo crcHi : Byte) :
    Statement (.frameRspException slaveId functionLow exceptionCode crcLo crcHi) := by
  intro h
  refine ⟨_, rfl, rfl, ?_⟩
  clear h
  show exceptionFunctionByte functionLow &&& 0x80 = 0x80
  revert functionLow; decide

end Sys2Proof.Laws.TableRow
end

