-- ==== Sys2Proof/Tests/Slice0.lean ====
section
/-! SUPPORT. Tests with their expected results from spec/ (95_test_vectors.md by its V numbers, and the tables of 30_encoding.md), and a
witness for the hypotheses of each statement. -/

namespace Sys2Proof.Tests

open Sys2Proof Sys2Proof.Machine Sys2Proof.Safety Sys2Proof.Claims

-- One kernel check after another: each check in parallel reserves a whole thread's stack.
set_option Elab.async false

/-! ### Small states -/

/-- `SLAVE_ID = 1`, `T5` (95_test_vectors.md), with a check bit. -/
def params5 (check : Bool) : Params := { slaveId := 1, regTabInit := [1, 2, 3, 4, 5], reqCrcCheck := check }

/-- Reset with `T5` and the check off. -/
def base : State := State.resetWith (params5 false)

/-- Reset with `T5` and the check on. -/
def checked : State := State.resetWith (params5 true)

/-- Reset with a table of `n` zeros. -/
def zeros (n : Nat) : State := State.resetWith { slaveId := 1, regTabInit := List.replicate n 0, reqCrcCheck := false }

/-- Something of the next state, if there is one. -/
def after {α : Type} (f : State → α) : Host.Outcome State Fault Refusal → Option α
  | .next t => some (f t)
  | _ => none

/-- Why a step was refused, if it was. -/
def refusal : Host.Outcome State Fault Refusal → Option Refusal
  | .refused r => some r
  | _ => none

/-- The frame to send and the status. -/
def sent (t : State) : Option (List Byte) × Status := (t.txFrame.toOption, t.status)

/-- The values received, then the exception code and the CRC, then the status. -/
def got (t : State) : List Nat × List Nat × Status := (t.valSeq.map BitVec.toNat, [t.rExc.toNat, t.crc.toNat], t.status)

/-- The decoded request fields and the CRC, then the status. -/
def fields (t : State) : List Nat × Status :=
  ([t.rId.toNat, t.rFc.toNat, t.rAddr.toNat, t.rQty.toNat, t.crc.toNat], t.status)

/-- The request and the response of V70. -/
def v70req : List Byte := [0x01, 0x03, 0x00, 0x01, 0x00, 0x03, 0x54, 0x0B]
def v70rsp : List Byte := [0x01, 0x03, 0x06, 0x00, 0x02, 0x00, 0x03, 0x00, 0x04, 0xA9, 0x76]

/-- The exception response of V41. -/
def v41 : List Byte := [0x01, 0x83, 0x02, 0xC0, 0xF1]

/-! ### Decoding: a word written out from the encoding of each row -/

theorem test_decode_op_0 : decode (.op 0b0000) = .ok .reservedOp0 := by decide
theorem test_decode_op_1 : decode (.op 0b0001) = .ok .crcInit := by decide
theorem test_decode_op_2 : decode (.op 0b0010) = .ok .crcByte := by decide
theorem test_decode_op_3 : decode (.op 0b0011) = .ok .crc16 := by decide
theorem test_decode_op_4 : decode (.op 0b0100) = .ok .encReq := by decide
theorem test_decode_op_5 : decode (.op 0b0101) = .ok .encExc := by decide
theorem test_decode_op_6 : decode (.op 0b0110) = .ok .encRsp := by decide
theorem test_decode_op_7 : decode (.op 0b0111) = .ok .decReq := by decide
theorem test_decode_op_8 : decode (.op 0b1000) = .ok .decRsp := by decide
theorem test_decode_op_9 : decode (.op 0b1001) = .ok .rtRead := by decide
theorem test_decode_op_a : decode (.op 0b1010) = .ok .respond := by decide
theorem test_decode_op_b : decode (.op 0b1011) = .ok .query := by decide
theorem test_decode_op_c : decode (.op 0b1100) = .ok .reservedOpC := by decide
theorem test_decode_op_d : decode (.op 0b1101) = .ok .reservedOpD := by decide
theorem test_decode_op_e : decode (.op 0b1110) = .ok .reservedOpE := by decide
theorem test_decode_op_f : decode (.op 0b1111) = .ok .reservedOpF := by decide

/-- V12's frame (F7 03 12 34 01 02 95 BB): the high byte of each field first. -/
theorem test_decode_request :
    decode (.frame .request [0xF7, 0x03, 0x12, 0x34, 0x01, 0x02, 0x95, 0xBB]) =
      .ok (.frameReqReadHolding 0xF7 0x1234 0x0102 0x95 0xBB) := by decide

/-- V38's frame. -/
theorem test_decode_other_function :
    decode (.frame .request [0x01, 0x06, 0x00, 0x01, 0x00, 0x03, 0x98, 0x0B]) =
      .ok (.frameReqOtherFunction 0x01 0x06 0x0001 0x0003 0x98 0x0B) := by decide

/-- V45's frame: an odd byte count keeps its odd byte as data. -/
theorem test_decode_normal_response :
    decode (.frame .response [0x01, 0x03, 0x03, 0x00, 0x02, 0x00, 0x44, 0xEE]) =
      .ok (.frameRspNormal 0x01 0x03 0x03 [0x00, 0x02, 0x00] 0x44 0xEE) := by decide

/-- V17's frame: bit 7 of byte 1 set. -/
theorem test_decode_exception_response :
    decode (.frame .response [0x01, 0x86, 0x01, 0x83, 0xA0]) = .ok (.frameRspException 0x01 0x06 0x01 0x83 0xA0) := by decide

/-- Buffers that are no frame of the table, by name: a runt, a request with bytes past its frame, a normal response cut short (V52). -/
theorem test_decode_rejects :
    decode (.frame .request (v70req.take 7)) = .error .requestLength ∧
    decode (.frame .request (v70req ++ [0xDE, 0xAD])) = .error .requestLength ∧
    decode (.frame .response (v41.take 4)) = .error .responseTooShort ∧
    decode (.frame .response (v70rsp.take 10)) = .error .responseLength := by decide

/-- The words of spec/opcode_table.json: byte 0 is the most significant. -/
theorem test_table_words :
    decodeTableWord 8 0xB = some .query ∧ decodeTableWord 8 0xE = some .reservedOpE ∧
    decodeTableWord 64 0xF703123401029555 = some (.frameReqReadHolding 0xF7 0x1234 0x0102 0x95 0x55) ∧
    decodeTableWord 64 0x010612340102AABB = some (.frameReqOtherFunction 0x01 0x06 0x1234 0x0102 0xAA 0xBB) ∧
    decodeTableWord 24 0x010302 = some (.frameRspNormal 0x01 0x03 0x02 [0x00, 0x00] 0x00 0x00) ∧
    decodeTableWord 40 0x018302C0F1 = some (.frameRspException 0x01 0x03 0x02 0xC0 0xF1) := by decide

/-! ### WellFormed: an ill-formed term for each check, and its well-formed neighbour -/

theorem test_wellFormed_other_function :
    (Instr.frameReqOtherFunction 1 0x03 1 3 0x54 0x0B).wellFormed = false ∧
    (Instr.frameReqOtherFunction 1 0x04 1 3 0x54 0x0B).wellFormed = true := by decide

theorem test_wellFormed_normal_response :
    (Instr.frameRspNormal 1 3 2 [0x00] 0x78 0x47).wellFormed = false ∧
    (Instr.frameRspNormal 1 3 2 [0x00, 0x05] 0x78 0x47).wellFormed = true := by decide

/-! ### One step of each instruction -/

/-- P4 step 1: `CRC_INIT` discards what `CRC` holds. -/
theorem test_crcInit : after State.crc (exec .crcInit { base with crc := 0x1234 }) = some 0xFFFF := by decide +kernel

/-- V3 and V8. -/
theorem test_crcByte :
    after State.crc (exec .crcByte { base with aByte := 0x01 }) = some 0x807E ∧
    after State.crc (exec .crcByte { base with crc := 0x1234, aByte := 0x56 }) = some 0xE993 := by decide +kernel

/-- V1, the published check value of "123456789". -/
theorem test_crc16 :
    after State.crc (exec .crc16 (base.storeRx [0x31, 0x32, 0x33, 0x34, 0x35, 0x36, 0x37, 0x38, 0x39])) = some 0x4B37 := by
  decide +kernel

/-- R23: a byte nothing has written stops the operation that reads it. -/
theorem test_crc16_unwritten : exec .crc16 { base with rxLen := 3 } = .fault (.unwrittenByte 0) := rfl

/-- V12. -/
theorem test_encReq :
    after sent (exec .encReq { base with aId := 0xF7, aAddr := 0x1234, aQty := 0x0102 }) =
      some (some [0xF7, 0x03, 0x12, 0x34, 0x01, 0x02, 0x95, 0xBB], .ok) := by decide +kernel

/-- V17 and V18: bit 7 is set whether or not it was. -/
theorem test_encExc :
    after sent (exec .encExc { base with aId := 1, aFc := 0x06, aExc := 1 }) = some (some [0x01, 0x86, 0x01, 0x83, 0xA0], .ok) ∧
    after sent (exec .encExc { base with aId := 1, aFc := 0x83, aExc := 1 }) = some (some [0x01, 0x83, 0x01, 0x80, 0xF0], .ok) := by
  decide +kernel

/-- V24. -/
theorem test_encRsp :
    after sent (exec .encRsp ({ base with aId := 1, aFc := 0x03 }.writeVals [0xFFFF, 0x0000, 0x8000])) =
      some (some [0x01, 0x03, 0x06, 0xFF, 0xFF, 0x00, 0x00, 0x80, 0x00, 0x40, 0xAE], .ok) := by decide +kernel

/-- V27: the largest frame has 259 bytes. -/
theorem test_encRsp_largest : after State.txLen (exec .encRsp { base with valN := 127 }) = some 259 := by decide +kernel

/-- V32 and V36: with the check off a wrong CRC is accepted; bytes past the eighth are ignored. -/
theorem test_decReq_unchecked :
    after fields (exec .decReq (base.storeRx [0x01, 0x03, 0x00, 0x01, 0x00, 0x03, 0x54, 0x0C])) =
      some ([0x01, 0x03, 0x0001, 0x0003, 0xFFFF], .ok) ∧
    after fields (exec .decReq (base.storeRx (v70req ++ [0xDE, 0xAD]))) = some ([0x01, 0x03, 0x0001, 0x0003, 0xFFFF], .ok) := by
  decide +kernel

/-- V31 and V33: with the check on. -/
theorem test_decReq_checked :
    after fields (exec .decReq (checked.storeRx v70req)) = some ([0x01, 0x03, 0x0001, 0x0003, 0x0B54], .ok) ∧
    after fields (exec .decReq ({ checked with rId := 9 }.storeRx [0x01, 0x03, 0x00, 0x01, 0x00, 0x03, 0x54, 0x0C])) =
      some ([9, 0, 0, 0, 0x0B54], .malformed) := by decide +kernel

/-- V45, V47 and V41: an odd byte count, a trailing zero byte, an exception. -/
theorem test_decRsp :
    after got (exec .decRsp (base.storeRx [0x01, 0x03, 0x03, 0x00, 0x02, 0x00, 0x44, 0xEE])) = some ([2], [0, 0xEE44], .ok) ∧
    after got (exec .decRsp (base.storeRx (v70rsp ++ [0x00]))) = some ([2, 3, 4], [0, 0x0076], .ok) ∧
    after got (exec .decRsp (base.storeRx v41)) = some ([], [2, 0xF1C0], .exception) := by decide +kernel

/-- V53, V56 and V59: too short for its byte count although a CRC matches; a wrong CRC; the order of steps 2 and 3. -/
theorem test_decRsp_malformed :
    after got (exec .decRsp (base.storeRx [0x01, 0x03, 0x04, 0x00, 0x02, 0xD9, 0x84])) = some ([], [0, 0xFFFF], .malformed) ∧
    after got (exec .decRsp (base.storeRx [0x01, 0x83, 0x02, 0xC0, 0xF0])) = some ([], [0, 0xF1C0], .malformed) ∧
    after got (exec .decRsp (base.storeRx [0x01, 0x03, 0x07, 0x00, 0x02, 0x00, 0x03, 0x00, 0x04, 0xA9, 0x76])) =
      some ([], [0, 0xFFFF], .malformed) := by decide +kernel

/-- V60, V64, V63 and V67: in range; empty at the table's end; one past the end; a sum a 16-bit adder would wrap. -/
theorem test_rtRead :
    after got (exec .rtRead { base with aAddr := 1, aQty := 3 }) = some ([2, 3, 4], [0, 0xFFFF], .ok) ∧
    after got (exec .rtRead { base with aAddr := 5, aQty := 0 }) = some ([], [0, 0xFFFF], .ok) ∧
    after got (exec .rtRead { base with aAddr := 4, aQty := 2 }) = some ([], [0, 0xFFFF], .outOfRange) ∧
    after got (exec .rtRead { base with aAddr := 0xFFFF, aQty := 2 }) = some ([], [0, 0xFFFF], .outOfRange) := by decide +kernel

/-- V69: 128 registers in range are refused, 127 past the end are out of range. -/
theorem test_rtRead_capacity :
    refusal (exec .rtRead { zeros 200 with aAddr := 0, aQty := 128 }) = some (.quantityAboveCapacity 128) ∧
    after got (exec .rtRead { zeros 200 with aAddr := 100, aQty := 127 }) = some ([], [0, 0xFFFF], .outOfRange) := by
  decide +kernel

/-- V70, V71, V87 and V84: served; out of range; illegal function before illegal address; the overflow case. -/
theorem test_respond :
    after sent (exec .respond (base.storeRx v70req)) = some (some v70rsp, .ok) ∧
    after sent (exec .respond (base.storeRx [0x01, 0x03, 0x00, 0x01, 0x00, 0x0A, 0x94, 0x0D])) = some (some v41, .exception) ∧
    after sent (exec .respond (base.storeRx [0x01, 0x06, 0x00, 0x09, 0x00, 0x09, 0x99, 0xCE])) =
      some (some [0x01, 0x86, 0x01, 0x83, 0xA0], .exception) ∧
    after sent (exec .respond (base.storeRx [0x01, 0x03, 0xFF, 0xFE, 0x00, 0x07, 0x55, 0xEC])) = some (some v41, .exception) := by
  decide +kernel

/-- V73 and V88: another slave's requests, each silent, its fields visible. -/
theorem test_respond_not_addressed :
    after sent (exec .respond (base.storeRx [0x02, 0x06, 0x00, 0x01, 0x00, 0x03, 0x98, 0x38])) = some (some [], .notAddressed) ∧
    after fields (exec .respond (base.storeRx [0x02, 0x03, 0x00, 0x01, 0x00, 0x03, 0x54, 0x38])) =
      some ([0x02, 0x03, 0x0001, 0x0003, 0xFFFF], .notAddressed) := by decide +kernel

/-- The state of the master in 95_test_vectors.md section 3.7, with one answer to come. -/
def asking (rx : List Byte) : State :=
  { base with aId := 1, aAddr := 1, aQty := 3, transport := { answers := [rx], taken := 0, trace := [] } }

/-- V90, V91, V92 and V93: values, an exception, silence, a truncated answer. -/
theorem test_query :
    after got (exec .query (asking v70rsp)) = some ([2, 3, 4], [0, 0x76A9], .ok) ∧
    after got (exec .query (asking v41)) = some ([], [2, 0xF1C0], .exception) ∧
    after got (exec .query (asking [])) = some ([], [0, 0x0B54], .timeout) ∧
    after got (exec .query (asking [0x01, 0x03, 0x06])) = some ([], [0, 0x0B54], .malformed) := by decide +kernel

/-- R112: what goes over the transport. -/
theorem test_query_trace :
    after (fun t => t.transport.trace) (exec .query (asking v41)) = some [.send v70req, .receive v41] := by decide +kernel

/-- R61. -/
theorem test_reserved : step (base.withFetchWord 8 0xC) = .refused (.reservedOp 0xC) := rfl

/-- V70 and V72 as received frames, from the word of the table. -/
theorem test_frame_requests :
    after sent (step (base.withFetchWord 64 0x010300010003540B)) = some (some v70rsp, .ok) ∧
    after sent (step (base.withFetchWord 64 0x010600010003980B)) = some (some [0x01, 0x86, 0x01, 0x83, 0xA0], .exception) := by
  decide +kernel

/-- V40 and V41 as received frames. -/
theorem test_frame_responses :
    after got (exec (.frameRspNormal 1 3 6 [0x00, 0x02, 0x00, 0x03, 0x00, 0x04] 0xA9 0x76) base) =
      some ([2, 3, 4], [0, 0x76A9], .ok) ∧
    after got (step (base.withFetchWord 40 0x018302C0F1)) = some ([], [2, 0xF1C0], .exception) := by decide +kernel

/-- R57 c: a runt handed to the slave is no frame of the table and is still received (V74). -/
theorem test_runt : after sent (step { base with host := [.command (.frame .request (v70req.take 7))] }) = some (some [], .malformed) := by
  decide +kernel

/-- R22. -/
theorem test_reset : State.reset.crc = 0xFFFF ∧ State.reset.status.code = 0 ∧ State.reset.rxLen = 0 ∧ State.reset.txLen = 0 ∧
    State.reset.valN = 0 := by decide

/-- R14: the codes of `STATUS`. -/
theorem test_status_codes :
    [Status.ok, .malformed, .exception, .timeout, .outOfRange, .notAddressed].map Status.code = [0, 1, 2, 3, 4, 5] := by decide

/-! ### Witnesses: a concrete state and operands for the hypotheses of each statement, one for each clause -/

theorem rxHolds_storeRx (s : State) (B : List Byte) : RxHolds (s.storeRx B) B := by
  refine ⟨rfl, fun i hi => ?_⟩
  simp only [State.storeRx, Memory.read_writeBytes]
  rw [if_pos (by omega)]; rfl

/-- A closed request in the buffer has arrived, whether or not its CRC is looked at. -/
theorem arrived_storeRx (s : State) (d : Request) : Arrived (s.storeRx (closed (six d.id d.fc d.addr d.qty))) d := by
  have h := (rxHolds_storeRx s (closed (six d.id d.fc d.addr d.qty))).2
  refine ⟨Nat.le_refl 8, fun i hi => ?_, fun _ => ⟨(h 6 (by show 6 < 8; decide)).trans rfl, (h 7 (by show 7 < 8; decide)).trans rfl⟩⟩
  rw [h i (Nat.lt_trans hi (by show 6 < 8; decide))]
  exact List.getElem?_append_left hi

theorem witness_DecodeOfEncodeIsTheInstruction :
    Instr.crcInit.wellFormed = true ∧ (Instr.frameReqReadHolding 0xFF 0xFFFF 0xFFFF 0xFF 0xFF).wellFormed = true ∧
    (Instr.frameReqOtherFunction 1 0x83 0 0 0 0).wellFormed = true ∧ (Instr.frameRspNormal 1 0x7F 0 [] 0 0).wellFormed = true ∧
    (Instr.frameRspException 1 0x7F 0xFF 0 0).wellFormed = true := by decide

theorem witness_DecodedCommandIsItsEncoding :
    decode (.op 0xF) = .ok .reservedOpF ∧ decode (.frame .response v41) = .ok (.frameRspException 1 3 2 0xC0 0xF1) := by decide

theorem witness_StepRunsTheDecodedInstruction :
    ({ base with host := [.command (.op 0x1)] } : State).host = .command (.op 0x1) :: [] ∧ decode (.op 0x1) = .ok .crcInit ∧
    base.host = [] ∧
    ({ base with host := [.command (.frame .request [0x01])] } : State).host = .command (.frame .request [0x01]) :: [] ∧
    decode (.frame .request [0x01]) = .error .requestLength := ⟨rfl, rfl, rfl, rfl, rfl⟩

theorem witness_ReservedCodesAreRefused :
    ({ base with host := [.command (.op 0xC)] } : State).host = .command (.op 0xC) :: [] ∧
    (0xC : BitVec 4) ∈ ([0x0, 0xC, 0xD, 0xE, 0xF] : List (BitVec 4)) := ⟨rfl, by decide⟩

theorem witness_ResetLeavesTheValuesOfTheSpec :
    ({ base with host := [.reset (params5 true)] } : State).host = .reset (params5 true) :: [] ∧
    (params5 true).regTabInit.length ≤ 65536 ∧ (List.replicate 65536 (0 : Word)).length ≤ 65536 := ⟨rfl, by decide, Nat.le_of_eq List.length_replicate⟩

theorem witness_HostWritesChangeTheirTargetAlone :
    (∀ w : HostWrite, ({ base with host := [.write w] } : State).host = .write w :: []) ∧
    Config.bufCap - 1 < Config.bufCap ∧ Config.bufCap ≤ Config.bufCap ∧ Config.bufCap < Config.bufCap + 1 := by
  have := bufCap_ge
  exact ⟨fun _ => rfl, by omega, by omega, by omega⟩

theorem witness_BufferReadsWhatWasWritten : Memory.wf [(3, 0x01), (258, 0xFF)] = true := by decide

theorem witness_Crc16IsTheSerialCrcOfTheBuffer :
    RxHolds (base.storeRx v41) v41 ∧ base.rxLen = 0 ∧ (∃ t, exec .crc16 (base.storeRx v41) = .next t) ∧
    ({ base with host := serialCrc v41 } : State).host = serialCrc v41 :=
  ⟨rxHolds_storeRx _ _, rfl, ⟨_, rfl⟩, rfl⟩

theorem witness_SingleBitFlipChangesTheCrc : 1 < ([0x00, 0x01] : List Byte).length ∧ 7 < 8 := by decide

theorem witness_EncRspBuildsTheDataFrame :
    ({ base with valN := 127 } : State).valN ≤ 127 ∧ 127 < ({ base with valN := 128 } : State).valN := by decide

theorem witness_EncodersPassTheCrcTest :
    Instr.encReq = .encReq ∧ Instr.encExc = .encExc ∧ Instr.encRsp = .encRsp ∧ ({ base with valN := 127 } : State).valN ≤ 127 := by
  decide

/-- Seven bytes; eight with the check off; eight with it on and the CRC right (V31) or wrong (V33). -/
theorem witness_DecReqParsesTheRequest :
    ({ base with rxLen := 7 } : State).rxLen < 8 ∧ 8 ≤ (base.storeRx v70req).rxLen ∧
    (∀ i, i < 6 → Memory.read (base.storeRx v70req).rxBuf i = [0x01, 0x03, 0x00, 0x01, 0x00, 0x03][i]?) ∧
    (base.storeRx v70req).reqCrcCheck = false ∧ (checked.storeRx v70req).reqCrcCheck = true ∧
    Memory.read (checked.storeRx v70req).rxBuf 6 = some 0x54 ∧ Memory.read (checked.storeRx v70req).rxBuf 7 = some 0x0B ∧
    ((0x54 : Byte) = lo (crc16 [0x01, 0x03, 0x00, 0x01, 0x00, 0x03]) ∧ (0x0B : Byte) = hi (crc16 [0x01, 0x03, 0x00, 0x01, 0x00, 0x03])) ∧
    ¬ ((0x54 : Byte) = lo (crc16 [0x01, 0x03, 0x00, 0x01, 0x00, 0x03]) ∧ (0x0C : Byte) = hi (crc16 [0x01, 0x03, 0x00, 0x01, 0x00, 0x03])) := by
  decide +kernel

/-- V51, V53, V56, V41 and V40: one buffer for each step; the exception buffer is as long as the least length allows. -/
theorem witness_DecRspFollowsItsFiveSteps :
    (v41.take 4).length < 5 ∧
    ((byteAt [0x01, 0x03, 0x04, 0x00, 0x02, 0xD9, 0x84] 1).msb = false ∧
      [0x01, 0x03, 0x04, 0x00, 0x02, 0xD9, 0x84].length < 5 + (byteAt [0x01, 0x03, 0x04, 0x00, 0x02, 0xD9, 0x84] 2).toNat) ∧
    byteAt [0x01, 0x83, 0x02, 0xC0, 0xF0] 4 ≠ hi (crc16 [0x01, 0x83, 0x02]) ∧
    (5 ≤ v41.length ∧ (byteAt v41 1).msb = true ∧ byteAt v41 3 = lo (crc16 (v41.take 3)) ∧ byteAt v41 4 = hi (crc16 (v41.take 3))) ∧
    (5 ≤ v70rsp.length ∧ (byteAt v70rsp 1).msb = false ∧ ¬ v70rsp.length < 5 + (byteAt v70rsp 2).toNat ∧
      byteAt v70rsp 9 = lo (crc16 (v70rsp.take 9)) ∧ byteAt v70rsp 10 = hi (crc16 (v70rsp.take 9))) := by decide +kernel

theorem witness_DecRspWritesTheResult : ({ base with rxLen := 4 } : State).rxLen < 5 ∧ RxHolds (base.storeRx v41) v41 :=
  ⟨by decide, rxHolds_storeRx _ _⟩

theorem witness_DecRspInvertsTheEncoders : (0x7F : Byte).msb = false ∧ (List.replicate 127 (0 : Word)).length ≤ 127 :=
  ⟨by decide, Nat.le_of_eq List.length_replicate⟩

theorem witness_CorruptedResponseIsMalformed : (∀ c, decRsp v41 ≠ .malformed c) ∧ 2 < v41.length - 2 ∧ 7 < 8 := by
  have h : decRsp v41 = .exceptionReceived 0x02 0xF1C0 := by decide +kernel
  exact ⟨fun c e => by simp [h] at e, by decide, by decide⟩

theorem witness_CorruptedRequestIsDropped :
    8 ≤ v70req.length ∧ crcOk v70req 6 = true ∧ RxHolds (checked.storeRx (flip v70req 5 7)) (flip v70req 5 7) ∧
    (checked.storeRx (flip v70req 5 7)).reqCrcCheck = true ∧ RxHolds (base.storeRx (flip v70req 5 7)) (flip v70req 5 7) ∧
    (base.storeRx (flip v70req 5 7)).reqCrcCheck = false :=
  ⟨by decide, by decide +kernel, rxHolds_storeRx _ _, rfl, rxHolds_storeRx _ _, rfl⟩

/-- One past the end; the last register; 127 and 128 registers in range. -/
theorem witness_RtReadChecksTheRange :
    base.regTab.length < (4 : Word).toNat + (2 : Word).toNat ∧ (4 : Word).toNat + (1 : Word).toNat ≤ base.regTab.length ∧
    ((0 : Word).toNat + (127 : Word).toNat ≤ (zeros 127).regTab.length ∧ (127 : Word).toNat ≤ 127) ∧
    ((0 : Word).toNat + (128 : Word).toNat ≤ (zeros 128).regTab.length ∧ 127 < (128 : Word).toNat) := by
  simp [base, zeros, State.resetWith, params5]

theorem witness_RespondIsSilentWhenNotMeant :
    ({ base with rxLen := 7 } : State).rxLen < 8 ∧
    (RxHolds (checked.storeRx (flip v70req 7 0)) (flip v70req 7 0) ∧ 8 ≤ (flip v70req 7 0).length ∧
      ¬ byteAt (flip v70req 7 0) 7 = hi (crc16 ((flip v70req 7 0).take 6))) ∧
    (Arrived (base.storeRx (closed (six 2 3 1 3))) ⟨2, 3, 1, 3⟩ ∧ (2 : Byte) ≠ (base.storeRx (closed (six 2 3 1 3))).slaveId) :=
  ⟨by decide, ⟨rxHolds_storeRx _ _, by decide, by decide +kernel⟩, arrived_storeRx base ⟨2, 3, 1, 3⟩, by decide +kernel⟩

theorem witness_RespondAnswersIllegalFunction :
    Arrived (base.storeRx (closed (six 1 0x83 9 9))) ⟨1, 0x83, 9, 9⟩ ∧ (1 : Byte) = base.slaveId ∧ (0x83 : Byte) ≠ 0x03 :=
  ⟨arrived_storeRx base ⟨1, 0x83, 9, 9⟩, rfl, by decide⟩

theorem witness_RespondAnswersIllegalDataAddress :
    Arrived (base.storeRx (closed (six 1 3 6 0))) ⟨1, 3, 6, 0⟩ ∧ (1 : Byte) = base.slaveId ∧
    base.regTab.length < (6 : Word).toNat + (0 : Word).toNat ∧
    Arrived (base.storeRx (closed (six 1 3 4 1))) ⟨1, 3, 4, 1⟩ ∧ (4 : Word).toNat + (1 : Word).toNat = base.regTab.length :=
  ⟨arrived_storeRx base ⟨1, 3, 6, 0⟩, rfl, by decide, arrived_storeRx base ⟨1, 3, 4, 1⟩, by decide⟩

/-- The sum equal to the table length with no register, and with 127. -/
theorem witness_RespondServesTheRegisters :
    Arrived (base.storeRx (closed (six 1 3 5 0))) ⟨1, 3, 5, 0⟩ ∧ (5 : Word).toNat + (0 : Word).toNat ≤ base.regTab.length ∧
    Arrived ((zeros 127).storeRx (closed (six 1 3 0 127))) ⟨1, 3, 0, 127⟩ ∧
    (0 : Word).toNat + (127 : Word).toNat ≤ (zeros 127).regTab.length ∧ (1 : Byte) = (zeros 127).slaveId :=
  ⟨arrived_storeRx base ⟨1, 3, 5, 0⟩, by decide, arrived_storeRx (zeros 127) ⟨1, 3, 0, 127⟩, by simp [zeros, State.resetWith], rfl⟩

theorem witness_RespondRefusesMoreThan127Registers :
    Arrived ((zeros 128).storeRx (closed (six 1 3 0 128))) ⟨1, 3, 0, 128⟩ ∧
    (0 : Word).toNat + (128 : Word).toNat ≤ (zeros 128).regTab.length ∧ 127 < (128 : Word).toNat ∧ (1 : Byte) = (zeros 128).slaveId :=
  ⟨arrived_storeRx (zeros 128) ⟨1, 3, 0, 128⟩, by simp [zeros, State.resetWith], by decide, rfl⟩

/-- One buffer for each row of R106: V74, V73, V72, V71, V70. -/
theorem witness_MultiplexerSelectsOneRow :
    after State.status (exec .respond base) = some .malformed ∧
    after State.status (exec .respond (base.storeRx (closed (six 2 3 1 3)))) = some .notAddressed ∧
    after State.rExc (exec .respond (base.storeRx (closed (six 1 6 1 3)))) = some 1 ∧
    after State.rExc (exec .respond (base.storeRx (closed (six 1 3 1 10)))) = some 2 ∧
    after State.status (exec .respond (base.storeRx (closed (six 1 3 1 3)))) = some .ok := by decide +kernel

/-- P3 of 95_test_vectors.md: `DEC_REQ` accepts a request of each kind; then `RT_READ` of its range answers each way. -/
theorem witness_RespondIsTheCompositionOfItsParts :
    after (fun t => (t.status, t.rId, t.rFc)) (exec .decReq (base.storeRx (closed (six 1 6 1 3)))) = some (.ok, 1, 6) ∧
    after (fun t => (t.status, t.rId, t.rFc)) (exec .decReq (base.storeRx (closed (six 1 3 1 3)))) = some (.ok, 1, 3) ∧
    after State.status (exec .rtRead { base with aAddr := 1, aQty := 3 }) = some .ok ∧
    after State.status (exec .rtRead { base with aAddr := 1, aQty := 10 }) = some .outOfRange ∧ base.slaveId = 1 := by decide +kernel

theorem witness_RespondRemembersNothing :
    SameRequestInput (base.storeRx v70req) { base.storeRx v70req with rExc := 1, valN := 9, txLen := 5, crc := 0, status := .exception } ∧
    after State.status (exec .respond (base.storeRx v70req)) = some .ok ∧
    exec .respond { base with rxLen := 8 } = .fault (.unwrittenByte 0) ∧
    refusal (exec .respond ((zeros 128).storeRx (closed (six 1 3 0 128)))) = some (.quantityAboveCapacity 128) :=
  ⟨⟨rfl, rfl, rfl, rfl, rfl⟩, by decide +kernel, rfl, by decide +kernel⟩

theorem witness_QueryClassifiesTheAnswer :
    (asking []).transport.answers = [] :: [] ∧ (asking v70rsp).transport.answers = v70rsp :: [] ∧
    ([] : List Byte).length ≤ Config.bufCap ∧ v70rsp.length ≤ Config.bufCap ∧ v70rsp ≠ [] := by
  refine ⟨rfl, rfl, Nat.zero_le _, Nat.le_trans (by decide) bufCap_ge, by decide⟩

theorem witness_QueryCompletesOnAnyAnswer : base.transport.answers = [] := rfl

theorem witness_QueryIsTheCompositionOfItsParts :
    (asking v41).transport.answers = v41 :: [] ∧ v41.length ≤ Config.bufCap ∧ v41 ≠ [] :=
  ⟨rfl, Nat.le_trans (by decide) bufCap_ge, by decide⟩

/-- The scenarios L1-b and L1-c of the source. -/
theorem witness_MasterReadsTheSlavesRegisters :
    (asking []).aId = base.slaveId ∧ RxHolds (base.storeRx (closed (six 1 3 1 3))) (closed (six 1 3 1 3)) ∧
    (1 : Word).toNat + (3 : Word).toNat ≤ base.regTab.length ∧
    RxHolds (base.storeRx (closed (six 1 3 1 10))) (closed (six 1 3 1 10)) ∧
    base.regTab.length < (1 : Word).toNat + (10 : Word).toNat :=
  ⟨rfl, rxHolds_storeRx _ _, by decide, rxHolds_storeRx _ _, by decide⟩

/-- The encoding of a frame; and a term whose bytes are more than the buffer holds. -/
theorem witness_ReceivedFramesRunTheirRole :
    encode (.frameRspException 1 3 2 0xC0 0xF1) = .frame .response v41 ∧ v41.length ≤ Config.bufCap ∧
    Config.bufCap < (bytesRspNormal 1 3 0 (List.replicate Config.bufCap 0) 0 0).length := by
  refine ⟨rfl, Nat.le_trans (by decide) bufCap_ge, ?_⟩
  simp [bytesRspNormal, responsePayload]; omega

theorem witness_ReceivedReadRequestIsServed :
    checked.reqCrcCheck = true ∧ (0x54 : Byte) = lo (crc16 (six checked.slaveId 3 1 3)) ∧
    (0x0B : Byte) = hi (crc16 (six checked.slaveId 3 1 3)) ∧ (1 : Word).toNat + (3 : Word).toNat ≤ checked.regTab.length ∧
    base.reqCrcCheck = false := by decide +kernel

theorem witness_ReceivedOtherFunctionIsAnswered :
    (0x06 : Byte) ≠ 0x03 ∧ checked.reqCrcCheck = true ∧ (0x98 : Byte) = lo (crc16 (six checked.slaveId 6 1 3)) ∧
    (0x0B : Byte) = hi (crc16 (six checked.slaveId 6 1 3)) := by decide +kernel

theorem witness_ReceivedNormalResponseGivesItsValues :
    (List.replicate 254 (0 : Byte)).length = (254 : Byte).toNat ∧ 5 + (254 : Byte).toNat ≤ Config.bufCap :=
  ⟨List.length_replicate, Nat.le_trans (by decide) bufCap_ge⟩

theorem witness_EveryStepKeepsTheInvariant : Inv base ∧ step base = .next base :=
  ⟨⟨rfl, fun _ _ => rfl, Nat.zero_le _, rfl, fun _ _ => rfl, Nat.zero_le _, by decide, by decide⟩, rfl⟩

theorem witness_EveryStepKeepsTheFrameToSendValid :
    TxFrameValid (base.sendPayload [1, 2]) ∧ step (base.sendPayload [1, 2]) = .next (base.sendPayload [1, 2]) :=
  ⟨.inr ⟨[1, 2], Memory.readBytes_writeBytes _ _⟩, rfl⟩

theorem witness_OnlyResetChangesTheTable :
    step { base with host := [.read] } = .next base ∧
    (∀ (p : Params) (rest : List HostStep), ({ base with host := [.read] } : State).host ≠ .reset p :: rest) :=
  ⟨rfl, fun _ _ => by simp⟩

theorem witness_OperationsNeverWriteOperands : ∃ t, exec .encReq base = .next t := ⟨_, rfl⟩

/-- `ENC_RSP` with its registers and both values written, the third entry not. -/
theorem witness_UnwrittenValuesDoNotMatter :
    operandsWritten .encRsp
      ({ base with written := { base.written with aId := true, aFc := true } }.writeVals [7, 8]) = true ∧
    operandsWritten .encRsp ({ base with valN := 3, written := { base.written with aId := true, aFc := true } } : State) = false := by
  decide +kernel

theorem witness_OperationsEndInTheirOutcomes : ∃ t, exec .crcInit base = .next t := ⟨_, rfl⟩

theorem witness_OperationsFaultOnlyOnUnwrittenBytes :
    exec .crc16 { base with rxLen := 1 } = .fault (.unwrittenByte 0) ∧
    exec .decReq { base with rxLen := 8 } = .fault (.unwrittenByte 0) ∧
    exec .decRsp { base with rxLen := 5 } = .fault (.unwrittenByte 1) ∧
    exec .respond { base with rxLen := 8 } = .fault (.unwrittenByte 0) := ⟨rfl, rfl, rfl, rfl⟩

/-- Each kind of refusal has its case: 128 values; 128 registers in range, asked for by RT_READ, by RESPOND and by a frame; more bytes than the
buffer holds, from the transport and in a frame. -/
theorem witness_OperationsAreRefusedOnlyWhereTheSpecRefuses :
    exec .reservedOpD base = .refused (.reservedOp 0xD) ∧
    RefusedCase { base with valN := 128 } (.quantityAboveCapacity 128) .encRsp ∧
    RefusedCase { zeros 128 with aQty := 128 } (.quantityAboveCapacity 128) .rtRead ∧
    RefusedCase ((zeros 128).storeRx (closed (six 1 3 0 128))) (.quantityAboveCapacity 128) .respond ∧
    RefusedCase (zeros 128) (.quantityAboveCapacity 128) (.frameReqReadHolding 1 0 128 0 0) ∧
    RefusedCase (asking (List.replicate (Config.bufCap + 1) 0)) (.bufferOverrun (Config.bufCap + 1)) .query ∧
    RefusedCase base (.bufferOverrun (5 + Config.bufCap)) (.frameRspNormal 1 3 0 (List.replicate Config.bufCap 0) 0 0) := by
  have hr : ReadRefused (zeros 128) 0 128 (.quantityAboveCapacity 128) := ⟨by simp [zeros, State.resetWith], by decide, rfl⟩
  refine ⟨rfl, ⟨by decide, rfl⟩, hr, ⟨⟨1, 3, 0, 128⟩, arrived_storeRx (zeros 128) ⟨1, 3, 0, 128⟩, rfl, rfl, hr⟩,
    ⟨⟨rfl, rfl, fun h => nomatch h⟩, hr⟩, ?_, ?_⟩
  · simp [RefusedCase, asking, Transport.nextAnswer]
  · have := bufCap_ge
    simp only [RefusedCase, List.length_replicate, and_true]; omega

/-- Two states that differ in every result register and in VAL; and, for ENC_RSP, in the result registers alone. -/
theorem witness_ResultRegistersAreNeverRead :
    SameButResults base { base with rId := 9, rFc := 9, rAddr := 9, rQty := 9, rExc := 9, val := Vector.replicate 127 9 } ∧
    (operandsOf .decRsp).val = false ∧
    SameButResults base { base with rId := 9, rFc := 9, rAddr := 9, rQty := 9, rExc := 9 } ∧ (operandsOf .encRsp).val = true :=
  ⟨rfl, rfl, rfl, rfl⟩

end Sys2Proof.Tests
end

section
/-! The reset (10_state.md R22, 70_reset_and_hazards.md R140): the values it loads, and the host step that performs it. -/

namespace Sys2Proof.Machine

/-! ### The values of R22 in a state just reset -/

section
variable (p : Params)

@[simp] theorem State.resetWith_regTab : (State.resetWith p).regTab = p.regTabInit := rfl
@[simp] theorem State.resetWith_slaveId : (State.resetWith p).slaveId = p.slaveId := rfl
@[simp] theorem State.resetWith_reqCrcCheck : (State.resetWith p).reqCrcCheck = p.reqCrcCheck := rfl
@[simp] theorem State.resetWith_crc : (State.resetWith p).crc = 0xFFFF := rfl
@[simp] theorem State.resetWith_status : (State.resetWith p).status = .ok := rfl
@[simp] theorem State.resetWith_rxLen : (State.resetWith p).rxLen = 0 := rfl
@[simp] theorem State.resetWith_txLen : (State.resetWith p).txLen = 0 := rfl
@[simp] theorem State.resetWith_valN : (State.resetWith p).valN = 0 := rfl

end

@[simp] theorem Status.code_ok : Status.ok.code = 0 := rfl

/-! ### The reset as a host step -/

theorem State.hostReset_of_table_fits (s : State) (p : Params) (hfit : p.regTabInit.length ≤ Config.maxTableLen) :
    s.hostReset p = .next { State.resetWith p with host := s.host, transport := s.transport } :=
  if_neg (Nat.not_lt.mpr hfit)

theorem step_of_host_reset {s : State} {p : Params} {rest : List HostStep} (hhost : s.host = .reset p :: rest) :
    step s = State.hostReset { s with host := rest } p := by
  simp only [step, hhost]

theorem step_reset_of_table_fits {s : State} {p : Params} {rest : List HostStep} (hhost : s.host = .reset p :: rest)
    (hfit : p.regTabInit.length ≤ Config.maxTableLen) :
    step s = .next { State.resetWith p with host := rest, transport := s.transport } :=
  (step_of_host_reset hhost).trans (State.hostReset_of_table_fits _ p hfit)

end Sys2Proof.Machine

namespace Sys2Proof.Proofs

open Sys2Proof.Machine

/-- Settles O6: a reset whose table fits goes on from `State.resetWith p`, with only the host and the transport kept, and
`State.reset` is `State.resetWith` of the configured parameters. -/
theorem resetLeavesTheValuesOfTheSpec : Obligations.ResetLeavesTheValuesOfTheSpec := by
  unfold Obligations.ResetLeavesTheValuesOfTheSpec
  constructor
  · intro s p rest hhost hfit
    refine ⟨_, step_reset_of_table_fits hhost hfit, ?_⟩
    simp [State.tableLen]
  · simp [State.reset, Params.configured]

end Sys2Proof.Proofs
end

section
/-! The reserved operation codes (30_encoding.md R61): the instruction each stands for, its refusal, and the host step that
issues an operation code. -/

namespace Sys2Proof

open Sys2Proof.Machine

/-! ### The decoder and the meanings at the reserved codes -/

@[simp] theorem decodeOp_0x0 : decodeOp 0x0 = .reservedOp0 := rfl
@[simp] theorem decodeOp_0xC : decodeOp 0xC = .reservedOpC := rfl
@[simp] theorem decodeOp_0xD : decodeOp 0xD = .reservedOpD := rfl
@[simp] theorem decodeOp_0xE : decodeOp 0xE = .reservedOpE := rfl
@[simp] theorem decodeOp_0xF : decodeOp 0xF = .reservedOpF := rfl

section
variable (s : State)

@[simp] theorem exec_reservedOp0 : exec .reservedOp0 s = .refused (.reservedOp 0x0) := rfl
@[simp] theorem exec_reservedOpC : exec .reservedOpC s = .refused (.reservedOp 0xC) := rfl
@[simp] theorem exec_reservedOpD : exec .reservedOpD s = .refused (.reservedOp 0xD) := rfl
@[simp] theorem exec_reservedOpE : exec .reservedOpE s = .refused (.reservedOp 0xE) := rfl
@[simp] theorem exec_reservedOpF : exec .reservedOpF s = .refused (.reservedOp 0xF) := rfl

end

theorem exec_decodeOp_of_reserved {code : BitVec 4} (hcode : code ∈ ([0x0, 0xC, 0xD, 0xE, 0xF] : List (BitVec 4)))
    (s : State) : exec (decodeOp code) s = .refused (.reservedOp code) := by
  simp only [List.mem_cons, List.not_mem_nil, or_false] at hcode
  obtain rfl | rfl | rfl | rfl | rfl := hcode
  · rw [decodeOp_0x0, exec_reservedOp0]
  · rw [decodeOp_0xC, exec_reservedOpC]
  · rw [decodeOp_0xD, exec_reservedOpD]
  · rw [decodeOp_0xE, exec_reservedOpE]
  · rw [decodeOp_0xF, exec_reservedOpF]

end Sys2Proof

namespace Sys2Proof.Machine

/-! ### A command as a host step (70_reset_and_hazards.md R156) -/

theorem step_of_host_command {s : State} {c : Command} {rest : List HostStep} (hhost : s.host = .command c :: rest) :
    step s = State.runCommand { s with host := rest } c := by
  simp only [step, hhost]

theorem State.runCommand_op (s : State) (code : BitVec 4) : s.runCommand (.op code) = exec (decodeOp code) s := rfl

theorem step_of_host_op {s : State} {code : BitVec 4} {rest : List HostStep} (hhost : s.host = .command (.op code) :: rest) :
    step s = exec (decodeOp code) { s with host := rest } :=
  (step_of_host_command hhost).trans (State.runCommand_op _ code)

end Sys2Proof.Machine

namespace Sys2Proof.Proofs

open Sys2Proof.Machine

/-- Settles O5: each reserved meaning is its refusal, and a step that issues a reserved code runs the instruction the code
decodes to. -/
theorem reservedCodesAreRefused : Obligations.ReservedCodesAreRefused := by
  unfold Obligations.ReservedCodesAreRefused
  constructor
  · intro s
    exact ⟨exec_reservedOp0 s, exec_reservedOpC s, exec_reservedOpD s, exec_reservedOpE s, exec_reservedOpF s⟩
  · intro s code rest hhost hcode
    exact (step_of_host_op hhost).trans (exec_decodeOp_of_reserved hcode _)

end Sys2Proof.Proofs
end

section
/-! The CRC operations (40_crc.md R72 to R74): what each answers, what the host steps of the serial generator do, and the run of
`CRC_INIT` followed by `CRC_BYTE` for each byte of a sequence. -/

namespace Sys2Proof

open Sys2Proof.Machine

/-! ### The decoder and the meanings at the CRC codes -/

@[simp] theorem decode_op (code : BitVec 4) : decode (.op code) = .ok (decodeOp code) := rfl

@[simp] theorem decodeOp_0x1 : decodeOp 0x1 = .crcInit := rfl
@[simp] theorem decodeOp_0x2 : decodeOp 0x2 = .crcByte := rfl
@[simp] theorem decodeOp_0x3 : decodeOp 0x3 = .crc16 := rfl

theorem exec_crcInit (s : State) : exec .crcInit s = .next { s with crc := crcInitValue, status := .ok } := rfl

theorem exec_crcByte (s : State) : exec .crcByte s = .next { s with crc := crcByte s.crc s.aByte, status := .ok } := rfl

theorem exec_crc16_of_rxBytes {s : State} {B : List Byte} (hB : s.rxBytes s.rxLen = .ok B) :
    exec .crc16 s = .next { s with crc := crc16 B, status := .ok } := by
  show execCrc16 s = _
  simp only [execCrc16, hB, State.raise]

end Sys2Proof

namespace Sys2Proof.Machine

theorem crc16_eq_foldl (B : List Byte) : crc16 B = B.foldl crcByte 0xFFFF := crcFrom_eq_foldl crcInitValue B

/-! ### The host steps of the serial generator, and a run by its first step -/

theorem step_of_host_write {s : State} {w : HostWrite} {rest : List HostStep} (hhost : s.host = .write w :: rest) :
    step s = State.hostWrite { s with host := rest } w := by
  simp only [step, hhost]

theorem step_of_host_aByte {s : State} {b : Byte} {rest : List HostStep} (hhost : s.host = .write (.aByte b) :: rest) :
    step s = .next { s with host := rest, aByte := b, written := { s.written with aByte := true } } :=
  step_of_host_write hhost

theorem step_of_host_crcInit {s : State} {rest : List HostStep} (hhost : s.host = .command (.op 0x1) :: rest) :
    step s = .next { s with host := rest, crc := crcInitValue, status := .ok } :=
  (step_of_host_op hhost).trans (by rw [decodeOp_0x1, exec_crcInit])

theorem step_of_host_crcByte {s : State} {rest : List HostStep} (hhost : s.host = .command (.op 0x2) :: rest) :
    step s = .next { s with host := rest, crc := crcByte s.crc s.aByte, status := .ok } :=
  (step_of_host_op hhost).trans (by rw [decodeOp_0x2, exec_crcByte])

theorem core_run_succ_of_next {s t : State} (k : Nat) (h : step s = .next t) : core.run (k + 1) s = core.run k t := by
  have hcore : core.step s = .next t := h
  simp only [Host.Core.run, hcore]

end Sys2Proof.Machine

namespace Sys2Proof.Claims

open Sys2Proof.Machine

theorem rxHolds_iff_rxBytes {s : State} {B : List Byte} : RxHolds s B ↔ s.rxBytes s.rxLen = .ok B := by
  rw [State.rxBytes_eq_ok, RxHolds, eq_comm (a := s.rxLen)]
  exact and_congr_right fun hlen => by rw [hlen]

theorem rxHolds_nil {s : State} (hlen : s.rxLen = 0) : RxHolds s [] :=
  ⟨hlen, fun _ hk => absurd hk (Nat.not_lt_zero _)⟩

theorem exec_crc16_of_rxHolds {s : State} {B : List Byte} (hB : RxHolds s B) :
    exec .crc16 s = .next { s with crc := crc16 B, status := .ok } :=
  exec_crc16_of_rxBytes (rxHolds_iff_rxBytes.1 hB)

/-! ### The serial generator (R73, R74) -/

/-- The part of `serialCrc` after `CRC_INIT`: the bytes fed one by one. -/
def feedBytes (B : List Byte) : List HostStep := B.flatMap fun b => [.write (.aByte b), .command (.op 0x2)]

theorem serialCrc_eq (B : List Byte) : serialCrc B = .command (.op 0x1) :: feedBytes B := rfl

theorem feedBytes_cons (b : Byte) (B : List Byte) :
    feedBytes (b :: B) = .write (.aByte b) :: .command (.op 0x2) :: feedBytes B := rfl

/-- The state after `A_BYTE <- b; CRC_BYTE` with `rest` to come. -/
def afterFeed (s : State) (b : Byte) (rest : List HostStep) : State :=
  { s with aByte := b, crc := crcByte s.crc b, status := .ok, host := rest, written := { s.written with aByte := true } }

/-- Two host steps feed one byte. -/
theorem core_run_feed {s : State} {b : Byte} {rest : List HostStep} (k : Nat)
    (hhost : s.host = .write (.aByte b) :: .command (.op 0x2) :: rest) :
    core.run (k + 2) s = core.run k (afterFeed s b rest) := by
  rw [core_run_succ_of_next (k + 1) (step_of_host_aByte hhost)]
  exact core_run_succ_of_next k (step_of_host_crcByte rfl)

/-- Feeding a sequence continues the CRC from whatever the register holds. -/
theorem core_run_feedBytes {s : State} {B : List Byte} (hhost : s.host = feedBytes B) :
    ∃ v, core.run (2 * B.length) s = .next v ∧ v.crc = crcFrom s.crc B := by
  induction B generalizing s with
  | nil => exact ⟨s, rfl, rfl⟩
  | cons b B ih =>
    obtain ⟨v, hrun, hcrc⟩ := ih (s := afterFeed s b (feedBytes B)) rfl
    exact ⟨v, (core_run_feed (2 * B.length) (hhost.trans (feedBytes_cons b B))).trans hrun, hcrc⟩

/-- The serial run ends with `crc16` of its bytes, whatever the state it starts from. -/
theorem core_run_serialCrc {s : State} {B : List Byte} (hhost : s.host = serialCrc B) :
    ∃ v, core.run (1 + 2 * B.length) s = .next v ∧ v.crc = crc16 B := by
  rw [Nat.add_comm, core_run_succ_of_next (2 * B.length) (step_of_host_crcInit (hhost.trans (serialCrc_eq B)))]
  exact core_run_feedBytes rfl

end Sys2Proof.Claims

namespace Sys2Proof.Proofs

open Sys2Proof.Machine Sys2Proof.Claims

/-- Settles O9: code 0x1 is `CRC_INIT`, which loads `CRC_INITVAL`. -/
theorem crcInitLoadsTheInitialValue : Obligations.CrcInitLoadsTheInitialValue := by
  unfold Obligations.CrcInitLoadsTheInitialValue
  exact ⟨by rw [decode_op, decodeOp_0x1], exec_crcInit⟩

/-- Settles O11: `CRC16` answers `crc16` of the readable buffer, which is the fold of the byte steps; the empty buffer is the
fold over nothing; and the serial run, by induction on the bytes fed, ends with the same `crc16`. -/
theorem crc16IsTheSerialCrcOfTheBuffer : Obligations.Crc16IsTheSerialCrcOfTheBuffer := by
  unfold Obligations.Crc16IsTheSerialCrcOfTheBuffer
  refine ⟨by rw [decode_op, decodeOp_0x3], ?_, ?_, ?_⟩
  · intro s B hB
    rw [← crc16_eq_foldl]
    exact exec_crc16_of_rxHolds hB
  · intro s hlen
    exact exec_crc16_of_rxHolds (rxHolds_nil hlen)
  · intro s t u B hB ht hhost
    have ht' : { s with crc := crc16 B, status := .ok } = t :=
      Host.Outcome.next.inj ((exec_crc16_of_rxHolds hB).symm.trans ht)
    obtain ⟨v, hrun, hcrc⟩ := core_run_serialCrc hhost
    exact ⟨v, hrun, hcrc.trans (congrArg State.crc ht')⟩

end Sys2Proof.Proofs
end

section
/-! The frame encoders (41_encode.md R80 to R83): what each answers, the payloads as the statements write them, and the one
operation that puts a closed frame in `TXBUF`. -/

namespace Sys2Proof

open Sys2Proof.Machine

/-! ### The decoder and the meanings at the encoder codes -/

@[simp] theorem decodeOp_0x4 : decodeOp 0x4 = .encReq := rfl
@[simp] theorem decodeOp_0x5 : decodeOp 0x5 = .encExc := rfl
@[simp] theorem decodeOp_0x6 : decodeOp 0x6 = .encRsp := rfl

theorem exec_encReq (s : State) :
    exec .encReq s = .next ((s.sendPayload (requestPayload s.aId fcReadHolding s.aAddr s.aQty)).raise .ok) := rfl

theorem exec_encExc (s : State) :
    exec .encExc s = .next ((s.sendPayload (exceptionPayload s.aId s.aFc s.aExc)).raise .ok) := rfl

theorem exec_encRsp_of_valN_le {s : State} (hN : s.valN ≤ valCap) :
    exec .encRsp s = .next ((s.sendValues s.aId s.aFc s.valSeq).raise .ok) :=
  if_neg (Nat.not_lt.mpr hN)

theorem exec_encRsp_of_valN_gt {s : State} (hN : valCap < s.valN) :
    exec .encRsp s = .refused (.quantityAboveCapacity s.valN) :=
  if_pos hN

end Sys2Proof

namespace Sys2Proof.Claims

open Sys2Proof.Machine

/-! ### The statements' byte layouts are the model's -/

theorem hi_eq_hiByte (v : Word) : hi v = hiByte v := (hiByte_eq_ofNat v).symm

theorem lo_eq_loByte (v : Word) : lo v = loByte v := (loByte_eq_ofNat v).symm

theorem closed_eq_withCrc (P : List Byte) : closed P = withCrc P := by
  simp only [closed, withCrc, hi_eq_hiByte, lo_eq_loByte]

theorem six_eq_requestPayload (id fc : Byte) (addr qty : Word) : six id fc addr qty = requestPayload id fc addr qty := by
  simp only [six, requestPayload, hi_eq_hiByte, lo_eq_loByte]

theorem flatMap_hi_lo_eq_bytesOfWords (vs : List Word) : (vs.flatMap fun v => [hi v, lo v]) = bytesOfWords vs := by
  induction vs with
  | nil => rfl
  | cons v vs ih =>
    rw [List.flatMap_cons, ih, hi_eq_hiByte, lo_eq_loByte]
    rfl

theorem dataPayload_eq_responsePayload (id fc : Byte) (vs : List Word) :
    dataPayload id fc vs = responsePayload id fc (BitVec.ofNat 8 (2 * vs.length)) (bytesOfWords vs) := by
  rw [dataPayload, flatMap_hi_lo_eq_bytesOfWords]
  rfl

theorem dataPayload_length (id fc : Byte) (vs : List Word) : (dataPayload id fc vs).length = 3 + 2 * vs.length := by
  rw [dataPayload, flatMap_hi_lo_eq_bytesOfWords, List.length_append, bytesOfWords_length]
  rfl

theorem sendValues_eq_sendPayload (s : State) (id fc : Byte) (vs : List Word) :
    s.sendValues id fc vs = s.sendPayload (dataPayload id fc vs) := by
  rw [dataPayload_eq_responsePayload, State.sendValues]

/-! ### The transmit buffer after `TX <- with_crc(P)` (R80) -/

theorem txHolds_sendPayload (s : State) (P : List Byte) (x : Status) :
    TxHolds ((s.sendPayload P).raise x) (closed P) := by
  rw [closed_eq_withCrc]
  refine ⟨rfl, fun i hi => ?_⟩
  rw [State.raise_txBuf, State.sendPayload_txBuf, Memory.read_writeBytes, if_pos (by omega), Nat.sub_zero]

theorem txKept_sendPayload (s : State) (P : List Byte) (x : Status) : TxKept s ((s.sendPayload P).raise x) := by
  intro a ha
  rw [State.raise_txLen, State.sendPayload_txLen] at ha
  rw [State.raise_txBuf, State.sendPayload_txBuf, Memory.read_writeBytes, if_neg (by omega)]

/-- The whole next state of an encoder: the transmit buffer, its length, the CRC and the status, and nothing else. -/
theorem sendPayload_raise_frame (s : State) {P : List Byte} {n : Nat} (hlen : P.length + 2 = n) (x : Status) :
    (s.sendPayload P).raise x =
      { s with txBuf := ((s.sendPayload P).raise x).txBuf, txLen := n, crc := crc16 P, status := x } := by
  rw [← hlen, ← withCrc_length]
  rfl

end Sys2Proof.Claims

namespace Sys2Proof.Proofs

open Sys2Proof.Machine Sys2Proof.Claims

/-- Settles O16: `ENC_REQ` sends the six bytes of R51 with function code 0x03, whatever the operands hold. -/
theorem encReqBuildsTheRequestFrame : Obligations.EncReqBuildsTheRequestFrame := by
  unfold Obligations.EncReqBuildsTheRequestFrame
  refine ⟨by rw [decode_op, decodeOp_0x4], fun s => ⟨_, exec_encReq s, ?_⟩⟩
  rw [six_eq_requestPayload]
  exact ⟨txHolds_sendPayload s _ .ok, txKept_sendPayload s _ .ok, sendPayload_raise_frame s rfl .ok⟩

/-- Settles O17: `ENC_EXC` sends the three bytes of R53, with bit 7 of the function code set, whatever the operands hold. -/
theorem encExcBuildsTheExceptionFrame : Obligations.EncExcBuildsTheExceptionFrame := by
  unfold Obligations.EncExcBuildsTheExceptionFrame
  refine ⟨by rw [decode_op, decodeOp_0x5], fun s => ⟨_, exec_encExc s, ?_⟩⟩
  exact ⟨txHolds_sendPayload s _ .ok, txKept_sendPayload s _ .ok, sendPayload_raise_frame s rfl .ok⟩

/-- Settles O18: up to 127 values `ENC_RSP` sends the payload of R52 over `VAL[0..VALN-1]`, whose length is `VALN`; above, its
guard refuses. -/
theorem encRspBuildsTheDataFrame : Obligations.EncRspBuildsTheDataFrame := by
  unfold Obligations.EncRspBuildsTheDataFrame
  refine ⟨by rw [decode_op, decodeOp_0x6], fun s hN => ?_, fun s hN => exec_encRsp_of_valN_gt hN⟩
  have hlen : (dataPayload s.aId s.aFc s.valSeq).length + 2 = 5 + 2 * s.valN := by
    rw [dataPayload_length, State.valSeq_length hN]
    omega
  refine ⟨_, exec_encRsp_of_valN_le hN, ?_⟩
  rw [sendValues_eq_sendPayload]
  exact ⟨txHolds_sendPayload s _ .ok, txKept_sendPayload s _ .ok, sendPayload_raise_frame s hlen .ok⟩

end Sys2Proof.Proofs
end

section
/-! The frame decoders (42_decode.md R91 to R95): what each operation answers for the result of its parse, the five steps of
`dec_rsp`, and the whole state a decoded response leaves. -/

namespace Sys2Proof.Machine

/-! ### One more readable byte -/

theorem State.rxBytes_append {s : State} {n : Nat} {B : List Byte} {b : Byte} (hB : s.rxBytes n = .ok B)
    (hb : Memory.read s.rxBuf n = some b) : s.rxBytes (n + 1) = .ok (B ++ [b]) := by
  obtain ⟨hlen, hread⟩ := State.rxBytes_eq_ok.1 hB
  refine State.rxBytes_eq_ok.2 ⟨by rw [List.length_append, hlen]; rfl, fun k hk => ?_⟩
  rcases Nat.lt_succ_iff_lt_or_eq.1 hk with hlt | rfl
  · rw [List.getElem?_append_left (hlen ▸ hlt), hread k hlt]
  · rw [hb, ← hlen, List.getElem?_concat_length]

/-! ### The five steps of `dec_rsp` (R92 to R94) -/

theorem shorterThanByteCount_iff {len : Nat} {b1 b2 : Byte} :
    shorterThanByteCount len b1 b2 = true ↔ b1.msb = false ∧ len < 5 + b2.toNat := by
  simp [shorterThanByteCount]

section
variable {B : List Byte}

theorem decRsp_of_length_lt (h5 : B.length < 5) : decRsp B = .malformed none := if_pos h5

theorem decRsp_of_shorter (h5 : 5 ≤ B.length) (hshort : shorterThanByteCount B.length (byteAt B 1) (byteAt B 2) = true) :
    decRsp B = .malformed none := by
  rw [decRsp, if_neg (Nat.not_lt.2 h5), if_pos hshort]

theorem decRsp_eq_decRspFrom3 (h5 : 5 ≤ B.length)
    (hlong : ¬ shorterThanByteCount B.length (byteAt B 1) (byteAt B 2) = true) : decRsp B = decRspFrom3 B := by
  rw [decRsp, if_neg (Nat.not_lt.2 h5), if_neg hlong]

theorem decRspFrom3_of_crc_wrong (hcrc : ¬ crcOk B (B.length - 2) = true) :
    decRspFrom3 B = .malformed (some (crc16 (B.take (B.length - 2)))) := by
  simp [decRspFrom3, hcrc]

theorem decRspFrom3_of_exception (hcrc : crcOk B (B.length - 2) = true) (hmsb : (byteAt B 1).msb = true) :
    decRspFrom3 B = .exceptionReceived (byteAt B 2) (crc16 (B.take (B.length - 2))) := by
  simp [decRspFrom3, hcrc, hmsb]

theorem decRspFrom3_of_normal (hcrc : crcOk B (B.length - 2) = true) (hmsb : (byteAt B 1).msb = false) :
    decRspFrom3 B =
      .values (wordsOfBytes ((byteAt B 2).toNat / 2) (B.drop 3)) (crc16 (B.take (B.length - 2))) := by
  simp [decRspFrom3, hcrc, hmsb]

end

end Sys2Proof.Machine

namespace Sys2Proof

open Sys2Proof.Machine

/-! ### The decoder and the meanings at the decoder codes -/

@[simp] theorem decodeOp_0x7 : decodeOp 0x7 = .decReq := rfl
@[simp] theorem decodeOp_0x8 : decodeOp 0x8 = .decRsp := rfl

section
variable {s : State}

theorem exec_decReq_of_malformed {c : Option Word} (hp : s.parseRequest = .ok (.malformed c)) :
    exec .decReq s = .next ((s.writeCrc c).raise .malformed) := by
  show execDecReq s = _
  simp only [execDecReq, hp]

theorem exec_decReq_of_parsed {d : Request} {c : Option Word} (hp : s.parseRequest = .ok (.parsed d c)) :
    exec .decReq s = .next (((s.writeCrc c).writeRequest d).raise .ok) := by
  show execDecReq s = _
  simp only [execDecReq, hp]

theorem exec_decRsp_of_parse {r : Response} (hp : s.parseResponse = .ok r) :
    exec .decRsp s = .next (s.applyResponse r) := by
  show execDecRsp s = _
  simp only [execDecRsp, hp]

theorem exec_decReq_short (h8 : s.rxLen < 8) : exec .decReq s = .next (s.raise .malformed) :=
  exec_decReq_of_malformed (State.parseRequest_short h8)

theorem exec_decReq_unchecked {B : List Byte} (h8 : 8 ≤ s.rxLen) (hoff : s.reqCrcCheck = false)
    (hB : s.rxBytes 6 = .ok B) : exec .decReq s = .next ((s.writeRequest (requestOf B)).raise .ok) :=
  exec_decReq_of_parsed (State.parseRequest_unchecked h8 hoff hB)

theorem exec_decReq_crc_right {B : List Byte} (h8 : 8 ≤ s.rxLen) (hon : s.reqCrcCheck = true)
    (hB : s.rxBytes 8 = .ok B) (hcrc : crcOk B 6 = true) :
    exec .decReq s = .next (((s.writeCrc (some (crc16 (B.take 6)))).writeRequest (requestOf B)).raise .ok) :=
  exec_decReq_of_parsed ((State.parseRequest_checked h8 hon hB).trans (if_pos hcrc))

theorem exec_decReq_crc_wrong {B : List Byte} (h8 : 8 ≤ s.rxLen) (hon : s.reqCrcCheck = true)
    (hB : s.rxBytes 8 = .ok B) (hcrc : ¬ crcOk B 6 = true) :
    exec .decReq s = .next ((s.writeCrc (some (crc16 (B.take 6)))).raise .malformed) :=
  exec_decReq_of_malformed ((State.parseRequest_checked h8 hon hB).trans (if_neg hcrc))

end

end Sys2Proof

namespace Sys2Proof.Claims

open Sys2Proof.Machine

/-! ### The statements' byte arithmetic is the model's -/

theorem num_eq_word (h l : Byte) : num h l = word h l := (word_eq_ofNat h l).symm

theorem crcOk_iff_lo_hi (B : List Byte) (k : Nat) :
    crcOk B k = true ↔ byteAt B k = lo (crc16 (B.take k)) ∧ byteAt B (k + 1) = hi (crc16 (B.take k)) := by
  rw [crcOk_iff, lo_eq_loByte, hi_eq_hiByte]

/-- The CRC test on the last two bytes of a buffer (R92, step 3). -/
theorem crcOk_last_iff {B : List Byte} (h2 : 2 ≤ B.length) :
    crcOk B (B.length - 2) = true ↔
      byteAt B (B.length - 2) = lo (crc16 (B.take (B.length - 2))) ∧
        byteAt B (B.length - 1) = hi (crc16 (B.take (B.length - 2))) := by
  rw [crcOk_iff_lo_hi, show B.length - 2 + 1 = B.length - 1 by omega]

theorem wordsOfBytes_drop_three_getElem? (B : List Byte) {q i : Nat} (hi : i < q) :
    (wordsOfBytes q (B.drop 3))[i]? = some (num (byteAt B (3 + 2 * i)) (byteAt B (4 + 2 * i))) := by
  rw [List.getElem?_eq_getElem (by rwa [wordsOfBytes_length]), wordsOfBytes_get, num_eq_word, be16, byteAt_drop,
    byteAt_drop, show 3 + (2 * i + 1) = 4 + 2 * i by omega]

/-! ### The state a decoded response leaves (R95) -/

theorem valuesWritten_of_setFrom {s t : State} {vs : List Word} (hval : t.val = setFrom vs 0 s.val)
    (hlen : t.valN = vs.length) : ValuesWritten s t vs :=
  ⟨hlen, fun i hi => by simp only [hval, setFrom_zero_get]⟩

theorem responseWritten_applyResponse (s : State) (r : Response) : ResponseWritten s (s.applyResponse r) s.crc r := by
  cases r with
  | malformed c => cases c <;> rfl
  | exceptionReceived e c => rfl
  | values vs c => exact ⟨valuesWritten_of_setFrom rfl rfl, rfl⟩

/-- A decoded response changes no element but these. -/
theorem applyResponse_frame (s : State) (r : Response) :
    s.applyResponse r =
      { s with val := (s.applyResponse r).val, valN := (s.applyResponse r).valN, rExc := (s.applyResponse r).rExc,
               crc := (s.applyResponse r).crc, status := (s.applyResponse r).status,
               written := { s.written with val := (s.applyResponse r).written.val } } := by
  cases r with
  | malformed c => cases c <;> rfl
  | exceptionReceived e c => rfl
  | values vs c => rfl

theorem exec_decRsp_of_rxHolds {s : State} {B : List Byte} (hB : RxHolds s B) :
    exec .decRsp s = .next (s.applyResponse (decRsp B)) :=
  exec_decRsp_of_parse (State.parseResponse_of_readable (rxHolds_iff_rxBytes.1 hB))

end Sys2Proof.Claims

namespace Sys2Proof.Proofs

open Sys2Proof.Machine Sys2Proof.Claims

/-- Settles O20: the length decides first; then the check bit decides whether six bytes are read or eight, and with eight the CRC
test decides between the fields and `MALFORMED`. -/
theorem decReqParsesTheRequest : Obligations.DecReqParsesTheRequest := by
  unfold Obligations.DecReqParsesTheRequest
  refine ⟨by rw [decode_op, decodeOp_0x7], fun s => exec_decReq_short, ?_⟩
  intro s b0 b1 b2 b3 b4 b5 h8 hread
  have h6 : s.rxBytes 6 = .ok [b0, b1, b2, b3, b4, b5] := State.rxBytes_eq_ok.2 ⟨rfl, hread⟩
  rw [num_eq_word, num_eq_word]
  refine ⟨fun hoff => exec_decReq_unchecked h8 hoff h6, ?_⟩
  intro b6 b7 hon hb6 hb7
  have hall : s.rxBytes 8 = .ok [b0, b1, b2, b3, b4, b5, b6, b7] :=
    State.rxBytes_append (State.rxBytes_append h6 hb6) hb7
  have hcrc := crcOk_iff_lo_hi [b0, b1, b2, b3, b4, b5, b6, b7] 6
  exact ⟨fun hright => exec_decReq_crc_right h8 hon hall (hcrc.2 hright),
    fun hwrong => exec_decReq_crc_wrong h8 hon hall (mt hcrc.1 hwrong)⟩

/-- Settles O21: the steps' conditions are the tests of `decRsp` and `decRspFrom3` in their order, and each value of step 5 is
read from the bytes after the first three. -/
theorem decRspFollowsItsFiveSteps : Obligations.DecRspFollowsItsFiveSteps := by
  unfold Obligations.DecRspFollowsItsFiveSteps
  intro B c short bad
  have hfrom3 (h5 : 5 ≤ B.length) (hlong : ¬ short) : decRsp B = decRspFrom3 B :=
    decRsp_eq_decRspFrom3 h5 (mt shorterThanByteCount_iff.1 hlong)
  have hcrc (h5 : 5 ≤ B.length) : crcOk B (B.length - 2) = true ↔ ¬ bad := by
    rw [crcOk_last_iff (by omega), not_or, not_ne_iff, not_ne_iff]
  refine ⟨decRsp_of_length_lt, fun h5 hshort => decRsp_of_shorter h5 (shorterThanByteCount_iff.2 hshort), ?_, ?_, ?_⟩
  · intro h5 hlong hbad
    rw [hfrom3 h5 hlong, decRspFrom3_of_crc_wrong fun hok => (hcrc h5).1 hok hbad]
  · intro h5 hlong hgood hmsb
    rw [hfrom3 h5 hlong, decRspFrom3_of_exception ((hcrc h5).2 hgood) hmsb]
  · intro h5 hlong hgood hmsb
    have hbyte := (byteAt B 2).isLt
    refine ⟨_, (hfrom3 h5 hlong).trans (decRspFrom3_of_normal ((hcrc h5).2 hgood) hmsb), ?_⟩
    rw [wordsOfBytes_length]
    exact ⟨rfl, by omega, fun i hi => wordsOfBytes_drop_three_getElem? B hi⟩

/-- Settles O22: a short buffer is malformed unread; otherwise the parse of a readable buffer is `dec_rsp` of it, and
`applyResponse` writes what R95 says of each result. -/
theorem decRspWritesTheResult : Obligations.DecRspWritesTheResult := by
  unfold Obligations.DecRspWritesTheResult
  refine ⟨by rw [decode_op, decodeOp_0x8], fun s h5 => exec_decRsp_of_parse (State.parseResponse_short h5), ?_⟩
  intro s B hB
  exact ⟨_, exec_decRsp_of_rxHolds hB, responseWritten_applyResponse s _, applyResponse_frame s _⟩

end Sys2Proof.Proofs
end

section
/-! The Register Table and the slave responder (43_responder.md R100 to R104): what `RT_READ` answers, the parse of an arrived
request, the rows of the multiplexer, and the whole state each row leaves. -/

namespace Sys2Proof.Machine

/-! ### The rows of the multiplexer (R106) -/

section
variable {s : State} {d : Request}

theorem State.select_of_foreign (hid : d.id ≠ s.slaveId) : s.select d = .notAddressed := if_pos hid

theorem State.select_of_otherFunction (hid : d.id = s.slaveId) (hfc : d.fc ≠ fcReadHolding) :
    s.select d = .exception excIllegalFunction := by
  rw [State.select, if_neg (not_not.2 hid), if_pos hfc]

theorem State.select_of_outOfRange (hid : d.id = s.slaveId) (hfc : d.fc = fcReadHolding)
    (hrange : s.tableLen < d.addr.toNat + d.qty.toNat) : s.select d = .exception excIllegalDataAddress := by
  rw [State.select, if_neg (not_not.2 hid), if_neg (not_not.2 hfc), State.rtRead_none.2 hrange]

theorem State.select_of_inRange (hid : d.id = s.slaveId) (hfc : d.fc = fcReadHolding)
    (hrange : d.addr.toNat + d.qty.toNat ≤ s.tableLen) :
    s.select d = .data (s.memRead d.addr.toNat d.qty.toNat) := by
  rw [State.select, if_neg (not_not.2 hid), if_neg (not_not.2 hfc), State.rtRead_some.2 ⟨hrange, rfl⟩]

theorem State.answer_of_select_notAddressed (hsel : s.select d = .notAddressed) :
    s.answer d = .next (s.sendNothing.raise .notAddressed) := by
  simp only [State.answer, hsel]

theorem State.answer_of_select_exception {code : Byte} (hsel : s.select d = .exception code) :
    s.answer d = .next (s.takeException d code) := by
  simp only [State.answer, hsel]

theorem State.answer_of_select_data {vs : List Word} (hsel : s.select d = .data vs) (hqty : d.qty.toNat ≤ valCap) :
    s.answer d = .next (((s.writeVals vs).sendValues d.id fcReadHolding vs).raise .ok) := by
  simp only [State.answer, hsel, if_neg (Nat.not_lt.2 hqty)]

end

/-! ### The CRC a parse computed -/

theorem State.writeCrc_eq (s : State) (c : Option Word) : s.writeCrc c = { s with crc := c.getD s.crc } := by
  cases c <;> rfl

/-! ### The CRC test looks at no byte past the CRC -/

theorem crcOk_take {B : List Byte} {k n : Nat} (hk : k + 2 ≤ n) : crcOk (B.take n) k = crcOk B k := by
  rw [crcOk, crcOk, le16, le16, byteAt_take B n k (by omega), byteAt_take B n (k + 1) (by omega), List.take_take,
    Nat.min_eq_left (by omega)]

/-! ### The fields of a request frame (R51, R91) -/

@[simp] theorem requestOf_requestPayload (d : Request) : requestOf (requestPayload d.id d.fc d.addr d.qty) = d := by
  simp [requestOf, requestPayload, be16]

theorem requestOf_withCrc_requestPayload (d : Request) :
    requestOf (withCrc (requestPayload d.id d.fc d.addr d.qty)) = d :=
  requestOf_requestPayload d

end Sys2Proof.Machine

namespace Sys2Proof

open Sys2Proof.Machine

/-! ### The decoder and the meanings at the codes of `RT_READ` and `RESPOND` -/

@[simp] theorem decodeOp_0x9 : decodeOp 0x9 = .rtRead := rfl

section
variable {s : State}

theorem exec_rtRead_outOfRange (hrange : s.tableLen < s.aAddr.toNat + s.aQty.toNat) :
    exec .rtRead s = .next (s.raise .outOfRange) := by
  show execRtRead s = _
  simp only [execRtRead, State.rtRead_none.2 hrange]

theorem exec_rtRead_inRange (hrange : s.aAddr.toNat + s.aQty.toNat ≤ s.tableLen) (hqty : s.aQty.toNat ≤ valCap) :
    exec .rtRead s = .next ((s.writeVals (s.memRead s.aAddr.toNat s.aQty.toNat)).raise .ok) := by
  show execRtRead s = _
  simp only [execRtRead, State.rtRead_some.2 ⟨hrange, rfl⟩, if_neg (Nat.not_lt.2 hqty)]

theorem exec_rtRead_aboveCapacity (hrange : s.aAddr.toNat + s.aQty.toNat ≤ s.tableLen) (hqty : valCap < s.aQty.toNat) :
    exec .rtRead s = .refused (.quantityAboveCapacity s.aQty.toNat) := by
  show execRtRead s = _
  simp only [execRtRead, State.rtRead_some.2 ⟨hrange, rfl⟩, if_pos hqty]

theorem exec_respond_of_malformed {c : Option Word} (hp : s.parseRequest = .ok (.malformed c)) :
    exec .respond s = .next ((s.writeCrc c).sendNothing.raise .malformed) := by
  show s.serveRequest = _
  simp only [State.serveRequest, hp]

theorem exec_respond_of_parsed {d : Request} {c : Option Word} (hp : s.parseRequest = .ok (.parsed d c)) :
    exec .respond s = ((s.writeCrc c).writeRequest d).answer d := by
  show s.serveRequest = _
  simp only [State.serveRequest, hp]

end

end Sys2Proof

namespace Sys2Proof.Claims

open Sys2Proof.Machine

/-! ### The registers of a range (R33) -/

theorem registers_length (s : State) (a n : Nat) : (registers s a n).length = n := by
  rw [registers, List.length_map, List.length_range]

theorem memRead_eq_registers {s : State} {a n : Nat} (hrange : a + n ≤ s.tableLen) : s.memRead a n = registers s a n := by
  obtain ⟨hlen, hget⟩ := State.memRead_spec hrange
  refine List.ext_getElem? fun i => ?_
  by_cases hi : i < n
  · have hin : a + i < s.regTab.length := Nat.lt_of_lt_of_le (Nat.add_lt_add_left hi a) hrange
    rw [hget i hi, registers, List.getElem?_map, List.getElem?_range hi, Option.map_some,
      List.getD_eq_getElem _ _ hin]
  · rw [List.getElem?_eq_none (by omega), List.getElem?_eq_none (by rw [registers_length]; omega)]

/-! ### An arrived request (R91) -/

theorem rxBytes_of_rxHolds {s : State} {B : List Byte} {n : Nat} (hB : RxHolds s B) (hn : n ≤ B.length) :
    s.rxBytes n = .ok (B.take n) := by
  refine State.rxBytes_eq_ok.2 ⟨List.length_take_of_le hn, fun k hk => ?_⟩
  rw [hB.2 k (Nat.lt_of_lt_of_le hk hn), List.getElem?_take_of_lt hk]

/-- The CRC the parse of an arrived request computes: none where the check is off. -/
def parsedCrc (s : State) (d : Request) : Option Word :=
  if s.reqCrcCheck then some (crc16 (six d.id d.fc d.addr d.qty)) else none

theorem Arrived.rxBytes_six {s : State} {d : Request} (h : Arrived s d) :
    s.rxBytes 6 = .ok (requestPayload d.id d.fc d.addr d.qty) := by
  obtain ⟨-, hsix, -⟩ := h
  rw [six_eq_requestPayload] at hsix
  exact State.rxBytes_eq_ok.2 ⟨rfl, hsix⟩

theorem Arrived.rxBytes_eight {s : State} {d : Request} (h : Arrived s d) (hon : s.reqCrcCheck = true) :
    s.rxBytes 8 = .ok (withCrc (requestPayload d.id d.fc d.addr d.qty)) := by
  obtain ⟨hlo, hhi⟩ := h.2.2 hon
  rw [six_eq_requestPayload, lo_eq_loByte] at hlo
  rw [six_eq_requestPayload, hi_eq_hiByte] at hhi
  exact State.rxBytes_append (State.rxBytes_append h.rxBytes_six hlo) hhi

theorem parseRequest_of_arrived {s : State} {d : Request} (h : Arrived s d) :
    s.parseRequest = .ok (.parsed d (parsedCrc s d)) := by
  rw [parsedCrc, six_eq_requestPayload]
  cases hcheck : s.reqCrcCheck with
  | false =>
    rw [State.parseRequest_unchecked h.1 hcheck h.rxBytes_six, requestOf_requestPayload]
    rfl
  | true =>
    have hcrc : crcOk (withCrc (requestPayload d.id d.fc d.addr d.qty)) 6 = true := crcOk_withCrc (requestPayload _ _ _ _)
    rw [State.parseRequest_checked h.1 hcheck (h.rxBytes_eight hcheck), if_pos hcrc, requestOf_withCrc_requestPayload]
    rfl

theorem parsedCrc_getD (s : State) (d : Request) : (parsedCrc s d).getD s.crc = crcAfterParse s d := by
  rw [parsedCrc, crcAfterParse]
  cases s.reqCrcCheck <;> rfl

theorem accepted_eq_writes (s : State) (d : Request) : accepted s d = (s.writeCrc (parsedCrc s d)).writeRequest d := by
  rw [accepted, ← parsedCrc_getD, State.writeCrc_eq]
  rfl

/-- `RESPOND` on an arrived request: step 1 accepts it, and the multiplexer answers (R105). -/
theorem exec_respond_of_arrived {s : State} {d : Request} (h : Arrived s d) :
    exec .respond s = (accepted s d).answer d := by
  rw [exec_respond_of_parsed (parseRequest_of_arrived h), accepted_eq_writes]

/-! ### The states the operations leave -/

/-- A range read writes its values into `VAL`, and changes nothing else but these elements (R100). -/
theorem writeVals_answers (s : State) (vs : List Word) (x : Status) :
    let t := (s.writeVals vs).raise x
    ValuesWritten s t vs ∧
      t = { s with val := t.val, valN := vs.length, status := x, written := { s.written with val := t.written.val } } :=
  ⟨valuesWritten_of_setFrom rfl rfl, rfl⟩

/-- Taking an exception sends the exception frame, and changes nothing else but these elements (R102, R103, R125). -/
theorem takeException_answers (s : State) (d : Request) (code : Byte) :
    TxHolds (s.takeException d code) (closed [d.id, d.fc ||| 0x80, code]) ∧ TxKept s (s.takeException d code) ∧
      s.takeException d code =
        { s with rExc := code, txBuf := (s.takeException d code).txBuf, txLen := 5,
                 crc := crc16 [d.id, d.fc ||| 0x80, code], status := .exception } :=
  ⟨txHolds_sendPayload { s with rExc := code } _ _, txKept_sendPayload { s with rExc := code } _ _,
    sendPayload_raise_frame { s with rExc := code } rfl _⟩

/-- The data row writes the values into `VAL` and sends them, and changes nothing else but these elements (R104, R105). -/
theorem dataRow_answers (s : State) (id : Byte) (vs : List Word) :
    let t := ((s.writeVals vs).sendValues id fcReadHolding vs).raise .ok
    TxHolds t (closed (dataPayload id 0x03 vs)) ∧ TxKept s t ∧ ValuesWritten s t vs ∧
      t = { s with val := t.val, valN := vs.length, written := { s.written with val := t.written.val }, txBuf := t.txBuf,
                   txLen := 5 + 2 * vs.length, crc := crc16 (dataPayload id 0x03 vs), status := .ok } := by
  have hlen : (dataPayload id 0x03 vs).length + 2 = 5 + 2 * vs.length := by
    rw [dataPayload_length]
    omega
  rw [sendValues_eq_sendPayload]
  exact ⟨txHolds_sendPayload (s.writeVals vs) _ _, txKept_sendPayload (s.writeVals vs) _ _, valuesWritten_of_setFrom rfl rfl,
    sendPayload_raise_frame (s.writeVals vs) hlen _⟩

end Sys2Proof.Claims

namespace Sys2Proof.Proofs

open Sys2Proof.Machine Sys2Proof.Claims

/-- Settles O26: the range test decides first, then the capacity; the registers a range read moves are those of the table. -/
theorem rtReadChecksTheRange : Obligations.RtReadChecksTheRange := by
  unfold Obligations.RtReadChecksTheRange
  refine ⟨by rw [decode_op, decodeOp_0x9], fun s => exec_rtRead_outOfRange, ?_, fun s => exec_rtRead_aboveCapacity⟩
  intro s hrange hqty
  have hans := writeVals_answers s (registers s s.aAddr.toNat s.aQty.toNat) .ok
  rw [registers_length] at hans
  refine ⟨_, exec_rtRead_inRange hrange hqty, ?_⟩
  rw [memRead_eq_registers hrange]
  exact hans

/-- Settles O27: a short request and one whose CRC test fails parse as malformed; a foreign one is accepted, and the multiplexer
selects its first row. -/
theorem respondIsSilentWhenNotMeant : Obligations.RespondIsSilentWhenNotMeant := by
  unfold Obligations.RespondIsSilentWhenNotMeant
  refine ⟨fun s h8 => exec_respond_of_malformed (State.parseRequest_short h8), ?_, ?_⟩
  · intro s B h8 hB hon hwrong
    have hcrc : ¬ crcOk (B.take 8) 6 = true := by
      rwa [crcOk_take (by decide), crcOk_iff_lo_hi]
    have hp := State.parseRequest_checked (hB.1 ▸ h8) hon (rxBytes_of_rxHolds hB h8)
    rw [if_neg hcrc, List.take_take] at hp
    exact exec_respond_of_malformed hp
  · intro s d harr hid
    rw [exec_respond_of_arrived harr]
    exact State.answer_of_select_notAddressed (State.select_of_foreign hid)

/-- Settles O28: the function code is looked at before the range, so the address and the quantity do not matter. -/
theorem respondAnswersIllegalFunction : Obligations.RespondAnswersIllegalFunction := by
  unfold Obligations.RespondAnswersIllegalFunction
  intro s d harr hid hfc
  rw [exec_respond_of_arrived harr]
  exact ⟨_, State.answer_of_select_exception (State.select_of_otherFunction hid hfc), takeException_answers (accepted s d) d 1⟩

/-- Settles O29: the range test is the strict one over the naturals, so a sum equal to the table length selects the data row. -/
theorem respondAnswersIllegalDataAddress : Obligations.RespondAnswersIllegalDataAddress := by
  unfold Obligations.RespondAnswersIllegalDataAddress
  intro s d harr hid hfc
  rw [exec_respond_of_arrived harr]
  constructor
  · intro hrange
    have hans := takeException_answers (accepted s d) d 2
    rw [hfc] at hans
    exact ⟨_, State.answer_of_select_exception (State.select_of_outOfRange hid hfc hrange), hans⟩
  · intro hsum hqty
    exact ⟨_, State.answer_of_select_data (State.select_of_inRange hid hfc (Nat.le_of_eq hsum)) hqty, rfl⟩

/-- Settles O30: the data row is selected, its values are the registers of the table, and there are as many as were asked for. -/
theorem respondServesTheRegisters : Obligations.RespondServesTheRegisters := by
  unfold Obligations.RespondServesTheRegisters
  intro s d harr hid hfc hrange hqty
  have hsel : (accepted s d).select d = .data (registers s d.addr.toNat d.qty.toNat) := by
    rw [← memRead_eq_registers hrange]
    exact State.select_of_inRange hid hfc hrange
  rw [exec_respond_of_arrived harr]
  have hans := dataRow_answers (accepted s d) d.id (registers s d.addr.toNat d.qty.toNat)
  rw [registers_length] at hans
  exact ⟨_, State.answer_of_select_data hsel hqty, hans⟩

end Sys2Proof.Proofs
end

section
/-! The master query (44_master.md R110 to R112): the transport with a placed answer, the two
outcomes of the classification, and the whole state `QUERY` leaves. -/

namespace Sys2Proof.Machine

/-! ### A transport with a placed answer (R111) -/

section
variable {t : Transport} {rx : List Byte} {rest : List (List Byte)}

theorem Transport.nextAnswer_of_answers (hans : t.answers = rx :: rest) : t.nextAnswer = rx := by
  simp only [Transport.nextAnswer, hans]

theorem Transport.exchange_of_answers (hans : t.answers = rx :: rest) (F : List Byte) :
    t.exchange F = { answers := rest, taken := t.taken, trace := t.trace ++ [.send F, .receive rx] } := by
  simp only [Transport.exchange, hans]

end

/-! ### The two outcomes of the classification (R110) -/

theorem State.classify_nil (s : State) : s.classify [] = s.raise .timeout := rfl

theorem State.classify_of_ne_nil (s : State) {rx : List Byte} (hne : rx ≠ []) :
    s.classify rx = s.applyResponse (decRsp rx) :=
  if_neg (mt List.length_eq_zero_iff.1 hne)

end Sys2Proof.Machine

namespace Sys2Proof

open Sys2Proof.Machine

/-! ### The decoder at the code of `QUERY` -/

@[simp] theorem decodeOp_0xB : decodeOp 0xB = .query := rfl

end Sys2Proof

namespace Sys2Proof.Claims

open Sys2Proof.Machine

/-! ### The buffers, seen through the elements they are made of -/

section
variable {s t u : State}

theorem txHolds_of_eq {F : List Byte} (hbuf : t.txBuf = u.txBuf) (hlen : t.txLen = u.txLen) (h : TxHolds u F) :
    TxHolds t F := by
  rwa [TxHolds, hbuf, hlen]

theorem txKept_of_eq (hbuf : t.txBuf = u.txBuf) (hlen : t.txLen = u.txLen) (h : TxKept s u) : TxKept s t := by
  rwa [TxKept, hbuf, hlen]

theorem rxHolds_of_stored {rx : List Byte} (hbuf : t.rxBuf = Memory.writeBytes s.rxBuf 0 rx) (hlen : t.rxLen = rx.length) :
    RxHolds t rx := by
  refine ⟨hlen, fun i hi => ?_⟩
  rw [hbuf, Memory.read_writeBytes, if_pos (by omega), Nat.sub_zero]

theorem read_rxBuf_of_stored {rx : List Byte} (hbuf : t.rxBuf = Memory.writeBytes s.rxBuf 0 rx) {a : Nat} (ha : rx.length ≤ a) :
    Memory.read t.rxBuf a = Memory.read s.rxBuf a := by
  rw [hbuf, Memory.read_writeBytes, if_neg (by omega)]

end

/-! ### The state the classification leaves (R112) -/

/-- A classification changes no element but these. -/
theorem classify_frame (s : State) (rx : List Byte) :
    s.classify rx =
      { s with val := (s.classify rx).val, valN := (s.classify rx).valN, rExc := (s.classify rx).rExc,
               crc := (s.classify rx).crc, status := (s.classify rx).status,
               written := { s.written with val := (s.classify rx).written.val } } := by
  by_cases hrx : rx = []
  · rw [hrx, State.classify_nil]
    rfl
  · rw [State.classify_of_ne_nil s hrx]
    exact applyResponse_frame s (decRsp rx)

/-- What a response writes is told from the result registers it meets, and from nothing else of the state before. -/
theorem responseWritten_of_results_eq {s u t : State} {c : Word} {r : Response} (hexc : u.rExc = s.rExc) (hval : u.val = s.val)
    (hvalN : u.valN = s.valN) (hwritten : u.written = s.written) (h : ResponseWritten u t c r) : ResponseWritten s t c r := by
  cases r <;> simpa only [ResponseWritten, ValuesWritten, hexc, hval, hvalN, hwritten] using h

/-! ### The state `QUERY` leaves (R112) -/

/-- The state `QUERY` ends in when the transport answers `rx`: request sent, answer stored, answer classified. -/
def queried (s : State) (rx : List Byte) : State := s.sendRequest.exchangeFrame.classify rx

theorem exec_query_of_answers {s : State} {rx : List Byte} {rest : List (List Byte)} (hans : s.transport.answers = rx :: rest)
    (hfit : rx.length ≤ Config.bufCap) : exec .query s = .next (queried s rx) := by
  show execQuery s = _
  rw [execQuery_eq, Transport.nextAnswer_of_answers hans, if_neg (Nat.not_lt.2 hfit), queried]

section
variable (s : State)

/-- The transmit buffer is the one the encoder leaves: neither the exchange nor the classification touches it. -/
theorem queried_txBuf (rx : List Byte) : (queried s rx).txBuf = (s.sendRequest.raise .ok).txBuf := State.classify_txBuf _ rx

theorem queried_txLen (rx : List Byte) : (queried s rx).txLen = (s.sendRequest.raise .ok).txLen := State.classify_txLen _ rx

theorem queried_txHolds (rx : List Byte) : TxHolds (queried s rx) (closed (requestPayload s.aId fcReadHolding s.aAddr s.aQty)) :=
  txHolds_of_eq (queried_txBuf s rx) (queried_txLen s rx) (txHolds_sendPayload s _ .ok)

theorem queried_txKept (rx : List Byte) : TxKept s (queried s rx) :=
  txKept_of_eq (queried_txBuf s rx) (queried_txLen s rx) (txKept_sendPayload s _ .ok)

/-- `QUERY` changes no element but these. -/
theorem queried_frame (rx : List Byte) :
    let t := queried s rx
    t = { s with txBuf := t.txBuf, txLen := 8, rxBuf := t.rxBuf, rxLen := t.rxLen, transport := t.transport, crc := t.crc,
                 status := t.status, rExc := t.rExc, val := t.val, valN := t.valN,
                 written := { s.written with val := t.written.val } } := by
  intro t
  exact (classify_frame s.sendRequest.exchangeFrame rx).trans (by simp [t, queried])

/-- No answer: the status says so, and the CRC is the request's. -/
theorem queried_nil :
    queried s [] =
      { queried s [] with
          status := .timeout, crc := crc16 (requestPayload s.aId fcReadHolding s.aAddr s.aQty), rExc := s.rExc, val := s.val,
          valN := s.valN, written := s.written } := by
  rw [queried, State.classify_nil]
  rfl

/-- An answer: the request has left its CRC and none of the result registers changed when `dec_rsp` runs. -/
theorem queried_responseWritten {rx : List Byte} (hne : rx ≠ []) :
    ResponseWritten s (queried s rx) (crc16 (requestPayload s.aId fcReadHolding s.aAddr s.aQty)) (decRsp rx) := by
  rw [queried, State.classify_of_ne_nil _ hne]
  exact responseWritten_of_results_eq rfl rfl rfl rfl (responseWritten_applyResponse s.sendRequest.exchangeFrame _)

end

section
variable {s : State} {rx : List Byte} {rest : List (List Byte)} (hans : s.transport.answers = rx :: rest)
include hans

theorem queried_rxBuf : (queried s rx).rxBuf = Memory.writeBytes s.rxBuf 0 rx := by
  rw [queried, State.classify_rxBuf, State.exchangeFrame_rxBuf, State.sendRequest_rxBuf, State.sendRequest_transport,
    Transport.nextAnswer_of_answers hans]

theorem queried_rxLen : (queried s rx).rxLen = rx.length := by
  rw [queried, State.classify_rxLen, State.exchangeFrame_rxLen, State.sendRequest_transport,
    Transport.nextAnswer_of_answers hans]

theorem queried_transport :
    (queried s rx).transport =
      { answers := rest, taken := s.transport.taken,
        trace := s.transport.trace ++
          [.send (closed (requestPayload s.aId fcReadHolding s.aAddr s.aQty)), .receive rx] } := by
  rw [queried, State.classify_transport, closed_eq_withCrc]
  exact Transport.exchange_of_answers hans _

end

end Sys2Proof.Claims

namespace Sys2Proof.Proofs

open Sys2Proof.Machine Sys2Proof.Claims

/-- Settles O35: `QUERY` ends in `queried s rx`. What the request and the exchange leave passes through the classification, which
is a timeout on the empty answer and the decoder's result on any other. -/
theorem queryClassifiesTheAnswer : Obligations.QueryClassifiesTheAnswer := by
  unfold Obligations.QueryClassifiesTheAnswer
  refine ⟨by rw [decode_op, decodeOp_0xB], fun s rx rest hans hfit => ?_⟩
  rw [six_eq_requestPayload]
  have hrxBuf := queried_rxBuf hans
  refine ⟨queried s rx, exec_query_of_answers hans hfit, queried_txHolds s rx, queried_txKept s rx,
    rxHolds_of_stored hrxBuf (queried_rxLen hans), fun a ha => read_rxBuf_of_stored hrxBuf ha, queried_transport hans,
    queried_frame s rx, ?_, queried_responseWritten s⟩
  rintro rfl
  exact queried_nil s

end Sys2Proof.Proofs
end

section
/-! The parameters in force (10_state.md R15, 70_reset_and_hazards.md R153): `SLAVE_ID`, `REGTAB` and `REQ_CRC_CHECK` as the state
holds them, which every operation and every host step but the reset keeps. -/

namespace Sys2Proof.Machine

/-- The parameters in force: those that a reset would have to load to leave this configuration and this table. -/
def State.params (s : State) : Params :=
  { slaveId := s.slaveId, regTabInit := s.regTab, reqCrcCheck := s.reqCrcCheck }

@[simp] theorem State.resetWith_params (p : Params) : (State.resetWith p).params = p := rfl

@[simp] theorem State.host_set_params (s : State) (steps : List HostStep) : { s with host := steps }.params = s.params := rfl

theorem State.params_eq_iff {s t : State} :
    t.params = s.params ↔ t.regTab = s.regTab ∧ t.slaveId = s.slaveId ∧ t.reqCrcCheck = s.reqCrcCheck := by
  rw [State.params, State.params, Params.mk.injEq, and_left_comm]

/-! ### The operations keep the parameters -/

section
variable {s t : State}

@[simp] theorem State.storeRx_params (s : State) (bytes : List Byte) : (s.storeRx bytes).params = s.params := rfl

@[simp] theorem State.applyResponse_params (s : State) (r : Response) : (s.applyResponse r).params = s.params := by
  simp [State.params_eq_iff]

theorem State.answer_keeps_params {d : Request} (h : s.answer d = .next t) : t.params = s.params := by
  obtain ⟨-, rfl⟩ | ⟨code, -, -, rfl⟩ | ⟨vs, -, -, -, rfl⟩ := State.answer_next h
  · rfl
  · rfl
  · rfl

theorem State.serveRequest_keeps_params (h : s.serveRequest = .next t) : t.params = s.params := by
  obtain ⟨c, -, rfl⟩ | ⟨d, c, -, hanswer⟩ := State.serveRequest_next h
  · simp [State.params_eq_iff]
  · calc t.params = ((s.writeCrc c).writeRequest d).params := State.answer_keeps_params hanswer
      _ = s.params := by simp [State.params_eq_iff]

theorem execDecReq_keeps_params (h : execDecReq s = .next t) : t.params = s.params := by
  obtain ⟨c, -, rfl⟩ | ⟨d, c, -, rfl⟩ := execDecReq_next h
  · simp [State.params_eq_iff]
  · simp [State.params_eq_iff]

theorem execDecRsp_keeps_params (h : execDecRsp s = .next t) : t.params = s.params := by
  obtain ⟨r, -, rfl⟩ := execDecRsp_next h
  exact State.applyResponse_params s r

theorem execRtRead_keeps_params (h : execRtRead s = .next t) : t.params = s.params := by
  obtain ⟨-, rfl⟩ | ⟨vs, -, -, rfl⟩ := execRtRead_next h
  · rfl
  · rfl

theorem execQuery_keeps_params (h : execQuery s = .next t) : t.params = s.params := by
  obtain ⟨-, rfl⟩ := execQuery_next h
  simp [State.params_eq_iff]

/-- Storing the buffer keeps the parameters, and so does the operation of either role. -/
theorem State.receiveFrame_keeps_params {dir : Direction} {bytes : List Byte} (h : s.receiveFrame dir bytes = .next t) :
    t.params = s.params := by
  obtain ⟨-, ⟨-, hserve⟩ | ⟨-, hdec⟩⟩ := State.receiveFrame_next h
  · exact (State.serveRequest_keeps_params hserve).trans (State.storeRx_params s bytes)
  · exact (execDecRsp_keeps_params hdec).trans (State.storeRx_params s bytes)

theorem exec_keeps_params {i : Instr} (h : exec i s = .next t) : t.params = s.params := by
  cases i with
  | crcInit => cases h; rfl
  | crcByte => cases h; rfl
  | crc16 => obtain ⟨B, -, rfl⟩ := execCrc16_next h; rfl
  | encReq => cases h; rfl
  | encExc => cases h; rfl
  | encRsp => obtain ⟨-, rfl⟩ := execEncRsp_next h; rfl
  | decReq => exact execDecReq_keeps_params h
  | decRsp => exact execDecRsp_keeps_params h
  | rtRead => exact execRtRead_keeps_params h
  | respond => exact State.serveRequest_keeps_params h
  | query => exact execQuery_keeps_params h
  | reservedOp0 => cases h
  | reservedOpC => cases h
  | reservedOpD => cases h
  | reservedOpE => cases h
  | reservedOpF => cases h
  | frameReqReadHolding =>
    rw [exec_frameReqReadHolding] at h
    exact State.receiveFrame_keeps_params h
  | frameReqOtherFunction =>
    rw [exec_frameReqOtherFunction] at h
    exact State.receiveFrame_keeps_params h
  | frameRspNormal =>
    rw [exec_frameRspNormal] at h
    exact State.receiveFrame_keeps_params h
  | frameRspException =>
    rw [exec_frameRspException] at h
    exact State.receiveFrame_keeps_params h

/-! ### The host steps keep the parameters -/

theorem State.runCommand_keeps_params {c : Command} (h : s.runCommand c = .next t) : t.params = s.params := by
  cases c with
  | op code => exact exec_keeps_params h
  | frame dir bytes =>
    simp only [State.runCommand] at h
    split at h
    · exact exec_keeps_params h
    · exact State.receiveFrame_keeps_params h

/-- No target of a host write (R21) is a parameter; the configuration registers are read-only and such a write is refused. -/
theorem State.hostWrite_keeps_params {w : HostWrite} (h : s.hostWrite w = .next t) : t.params = s.params := by
  cases w with
  | rxByte i v =>
    simp only [State.hostWrite] at h
    split at h
    · cases h; rfl
    · cases h
  | rxLen n =>
    simp only [State.hostWrite] at h
    split at h
    · cases h; rfl
    · cases h
  | readOnly r => cases h
  | _ => cases h; rfl

theorem step_of_host_nil (hhost : s.host = []) : step s = .next s := by
  simp only [step, hhost]

theorem step_of_host_read {rest : List HostStep} (hhost : s.host = .read :: rest) :
    step s = .next { s with host := rest } := by
  simp only [step, hhost]

theorem step_keeps_params (h : step s = .next t) (hreset : ∀ (p : Params) (rest : List HostStep), s.host ≠ .reset p :: rest) :
    t.params = s.params := by
  cases hhost : s.host with
  | nil =>
    rw [step_of_host_nil hhost] at h
    cases h
    rfl
  | cons a rest =>
    cases a with
    | command c =>
      rw [step_of_host_command hhost] at h
      exact (State.runCommand_keeps_params h).trans (State.host_set_params s rest)
    | write w =>
      rw [step_of_host_write hhost] at h
      exact (State.hostWrite_keeps_params h).trans (State.host_set_params s rest)
    | read =>
      rw [step_of_host_read hhost] at h
      cases h
      rfl
    | reset p => exact absurd hhost (hreset p rest)

end

end Sys2Proof.Machine

namespace Sys2Proof.Proofs

open Sys2Proof.Machine

/-- Settles O47: of the host's steps, idling, a command, a write and a read keep the parameters in force; the reset is excluded. -/
theorem onlyResetChangesTheTable : Obligations.OnlyResetChangesTheTable := by
  unfold Obligations.OnlyResetChangesTheTable
  intro s t hstep hreset
  exact State.params_eq_iff.1 (step_keeps_params hstep hreset)

end Sys2Proof.Proofs
end

section
/-! The encoding (30_encoding.md R50 to R61): the decoder on a buffer laid out as each row of the table, and the row of each buffer
the decoder accepts. -/

namespace Sys2Proof

/-! ### The two checks of well-formedness -/

theorem wellFormed_frameReqOtherFunction {id fc : Byte} {addr qty : Word} {l h : Byte} :
    (Instr.frameReqOtherFunction id fc addr qty l h).wellFormed = true ↔ fc ≠ fcReadHolding := bne_iff_ne

theorem wellFormed_frameRspNormal {id : Byte} {low : BitVec 7} {n : Byte} {data : List Byte} {l h : Byte} :
    (Instr.frameRspNormal id low n data l h).wellFormed = true ↔ data.length = n.toNat := beq_iff_eq

/-! ### Every encoding decodes to its instruction -/

theorem decodeRequest_readHolding (id : Byte) (addr qty : Word) (l h : Byte) :
    decodeRequest (bytesReqReadHolding id addr qty l h) = .ok (.frameReqReadHolding id addr qty l h) := by
  simp [bytesReqReadHolding, requestPayload, decodeRequest]

theorem decodeRequest_otherFunction {fc : Byte} (hfc : fc ≠ fcReadHolding) (id : Byte) (addr qty : Word) (l h : Byte) :
    decodeRequest (bytesReqOtherFunction id fc addr qty l h) = .ok (.frameReqOtherFunction id fc addr qty l h) := by
  simp [bytesReqOtherFunction, requestPayload, decodeRequest, hfc]

/-- The data bytes and the two CRC bytes of a normal response come apart again at the byte count (R59). -/
theorem decodeResponse_normal {n : Byte} {data : List Byte} (hlen : data.length = n.toNat) (id : Byte) (low : BitVec 7) (l h : Byte) :
    decodeResponse (bytesRspNormal id low n data l h) = .ok (.frameRspNormal id low n data l h) := by
  obtain ⟨b3, b4, rest, htail⟩ : ∃ b3 b4 rest, data ++ [l, h] = b3 :: b4 :: rest := by
    rcases data with _ | ⟨a, _ | ⟨b, data⟩⟩
    · exact ⟨l, h, [], rfl⟩
    · exact ⟨a, l, [h], rfl⟩
    · exact ⟨a, b, data ++ [l, h], rfl⟩
  have hrest : rest.length = n.toNat := by
    have := congrArg List.length htail
    simp only [List.length_append, List.length_cons, List.length_nil] at this
    omega
  have hl : byteAt (data ++ [l, h]) n.toNat = l := by
    rw [byteAt_append_right _ _ _ hlen.le, hlen, Nat.sub_self, byteAt_cons_zero]
  have hh : byteAt (data ++ [l, h]) (n.toNat + 1) = h := by
    rw [byteAt_append_right _ _ _ (by omega), hlen, Nat.add_sub_cancel_left, byteAt_cons_succ, byteAt_cons_zero]
  have hdata : (data ++ [l, h]).take n.toNat = data := by rw [← hlen, List.take_left]
  rw [htail] at hl hh hdata
  simp only [bytesRspNormal, responsePayload, List.cons_append, htail, decodeResponse, normalFunctionByte_msb, Bool.false_eq_true,
    if_false, hrest, if_true, normalFunctionByte_low, hl, hh, hdata]

theorem decodeResponse_exception (id : Byte) (low : BitVec 7) (code l h : Byte) :
    decodeResponse (bytesRspException id low code l h) = .ok (.frameRspException id low code l h) := by
  simp [bytesRspException, decodeResponse]

/-! ### Every buffer the decoder accepts is an encoding -/

theorem encode_decodeOp (code : BitVec 4) : encode (decodeOp code) = .op code ∧ (decodeOp code).wellFormed = true := by
  revert code
  decide

theorem encode_of_decodeRequest {B : List Byte} {i : Instr} (hdec : decodeRequest B = .ok i) :
    encode i = .frame .request B ∧ i.wellFormed = true := by
  unfold decodeRequest at hdec
  split at hdec
  · rename_i id fc a1 a0 q1 q0 l h
    by_cases hfc : fc = fcReadHolding
    · rw [if_pos hfc] at hdec
      cases hdec
      simp [encode, bytesReqReadHolding, requestPayload, Instr.wellFormed, hfc]
    · rw [if_neg hfc] at hdec
      cases hdec
      exact ⟨by simp [encode, bytesReqOtherFunction, requestPayload], wellFormed_frameReqOtherFunction.2 hfc⟩
  · cases hdec

/-- A sequence with two bytes more than `n` is its first `n` bytes and those two. -/
theorem take_append_two_bytes {B : List Byte} {n : Nat} (hlen : B.length = n + 2) :
    B.take n ++ [byteAt B n, byteAt B (n + 1)] = B := by
  conv_rhs => rw [← List.take_append_drop n B]
  rw [List.drop_eq_getElem_cons (by omega), List.drop_eq_getElem_cons (by omega), List.drop_eq_nil_of_le (by omega),
    byteAt_eq_getElem B n (by omega), byteAt_eq_getElem B (n + 1) (by omega)]

theorem encode_of_decodeResponse {B : List Byte} {i : Instr} (hdec : decodeResponse B = .ok i) :
    encode i = .frame .response B ∧ i.wellFormed = true := by
  unfold decodeResponse at hdec
  split at hdec
  · rename_i id fc b2 b3 b4 rest
    by_cases hmsb : fc.msb = true
    · by_cases hrest : rest = []
      · rw [if_pos hmsb, if_pos hrest] at hdec
        cases hdec
        simp only [encode, bytesRspException, exceptionFunctionByte_of_low hmsb, hrest, Instr.wellFormed, and_self]
      · rw [if_pos hmsb, if_neg hrest] at hdec
        cases hdec
    · by_cases hrest : rest.length = b2.toNat
      · rw [if_neg hmsb] at hdec
        simp only [if_pos hrest] at hdec
        cases hdec
        have htail : (b3 :: b4 :: rest).length = b2.toNat + 2 := congrArg (· + 2) hrest
        refine ⟨?_, wellFormed_frameRspNormal.2 (List.length_take_of_le (htail ▸ Nat.le_add_right _ 2))⟩
        simp only [encode, bytesRspNormal, responsePayload, normalFunctionByte_of_low (Bool.not_eq_true _ ▸ hmsb), List.cons_append,
          take_append_two_bytes htail]
      · rw [if_neg hmsb] at hdec
        simp only [if_neg hrest] at hdec
        cases hdec
  · cases hdec

end Sys2Proof

namespace Sys2Proof.Proofs

open Sys2Proof

/-- Settles O1: an operation code is decoded by `decodeOp`, a frame by the layout of its row; well-formedness is what a row's layout
asks of the operands. -/
theorem decodeOfEncodeIsTheInstruction : Obligations.DecodeOfEncodeIsTheInstruction := by
  unfold Obligations.DecodeOfEncodeIsTheInstruction
  intro i hwf
  cases i with
  | frameReqReadHolding id addr qty l h => exact decodeRequest_readHolding id addr qty l h
  | frameReqOtherFunction id fc addr qty l h =>
    exact decodeRequest_otherFunction (wellFormed_frameReqOtherFunction.1 hwf) id addr qty l h
  | frameRspNormal id low n data l h => exact decodeResponse_normal (wellFormed_frameRspNormal.1 hwf) id low l h
  | frameRspException id low code l h => exact decodeResponse_exception id low code l h
  | _ => rfl

/-- Settles O2: each code and each buffer the decoder accepts is laid out again as it was. -/
theorem decodedCommandIsItsEncoding : Obligations.DecodedCommandIsItsEncoding := by
  unfold Obligations.DecodedCommandIsItsEncoding
  intro c i hdec
  cases c with
  | op code =>
    rw [decode_op] at hdec
    cases hdec
    exact encode_decodeOp code
  | frame dir B =>
    cases dir with
    | request => exact encode_of_decodeRequest hdec
    | response => exact encode_of_decodeResponse hdec

/-- Settles O3: the codes and buffers are closed terms that the decoder evaluates. -/
theorem writtenOutWordsDecode : Obligations.WrittenOutWordsDecode := by
  unfold Obligations.WrittenOutWordsDecode
  decide

end Sys2Proof.Proofs
end

section
/-! What every instruction does to two states at once: all of them are made of a few updates of the state, and read only what
10_state.md lists for them. A relation between states that the updates keep, and under which the reads agree, carries over from the
states before an instruction to its outcomes. One pass over the instructions serves the invariants of a run and every statement
that some element is not read. -/

namespace Sys2Proof.Machine

open Sys2Proof.Safety

/-- Two outcomes are alike under `S`: the same stop, or next states that `S` relates. -/
inductive OutcomesAlike (S : State → State → Prop) :
    Host.Outcome State Fault Refusal → Host.Outcome State Fault Refusal → Prop where
  | next {t t' : State} (h : S t t') : OutcomesAlike S (.next t) (.next t')
  | fault (f : Fault) : OutcomesAlike S (.fault f) (.fault f)
  | refused (r : Refusal) : OutcomesAlike S (.refused r) (.refused r)

section
variable {S : State → State → Prop} {b : Host.Outcome State Fault Refusal}

theorem OutcomesAlike.of_next {t : State} (h : OutcomesAlike S (.next t) b) : ∃ t', b = .next t' ∧ S t t' := by
  cases h with
  | next h => exact ⟨_, rfl, h⟩

theorem OutcomesAlike.of_fault {f : Fault} (h : OutcomesAlike S (.fault f) b) : b = .fault f := by
  cases h
  rfl

theorem OutcomesAlike.of_refused {r : Refusal} (h : OutcomesAlike S (.refused r) b) : b = .refused r := by
  cases h
  rfl

end

/-- Two states agree in everything an instruction that lists the operand registers `r` can read. -/
structure ReadsAlike (r : OperandSet) (s u : State) : Prop where
  aId : r.aId = true → u.aId = s.aId
  aFc : r.aFc = true → u.aFc = s.aFc
  aAddr : r.aAddr = true → u.aAddr = s.aAddr
  aQty : r.aQty = true → u.aQty = s.aQty
  aExc : r.aExc = true → u.aExc = s.aExc
  aByte : r.aByte = true → u.aByte = s.aByte
  valN : r.val = true → u.valN = s.valN
  valSeq : r.val = true → u.valSeq = s.valSeq
  crc : u.crc = s.crc
  rxBuf : u.rxBuf = s.rxBuf
  rxLen : u.rxLen = s.rxLen
  slaveId : u.slaveId = s.slaveId
  reqCrcCheck : u.reqCrcCheck = s.reqCrcCheck
  regTab : u.regTab = s.regTab
  transport : u.transport = s.transport

theorem ReadsAlike.refl (r : OperandSet) (s : State) : ReadsAlike r s s := by
  constructor <;> simp

/-- `R` is kept by the updates that instructions are made of, and gives `S` when an outcome is raised at the end; under `R` the reads
of an instruction that lists `r` agree. -/
structure KeptByUpdates (r : OperandSet) (R S : State → State → Prop) : Prop where
  reads {s u : State} : R s u → ReadsAlike r s u
  raise {s u : State} (x : Status) : R s u → S (s.raise x) (u.raise x)
  crc {s u : State} (c : Word) : R s u → R { s with crc := c } { u with crc := c }
  rExc {s u : State} (e : Byte) : R s u → R { s with rExc := e } { u with rExc := e }
  transport {s u : State} (t : Transport) : R s u → R { s with transport := t } { u with transport := t }
  writeRequest {s u : State} (d : Request) : R s u → R (s.writeRequest d) (u.writeRequest d)
  writeVals {s u : State} {vs : List Word} : vs.length ≤ valCap → R s u → R (s.writeVals vs) (u.writeVals vs)
  sendPayload {s u : State} {P : List Byte} : (withCrc P).length ≤ Config.bufCap → R s u → R (s.sendPayload P) (u.sendPayload P)
  sendNothing {s u : State} : R s u → R s.sendNothing u.sendNothing
  storeRx {s u : State} {rx : List Byte} : rx.length ≤ Config.bufCap → R s u → R (s.storeRx rx) (u.storeRx rx)

/-! ### What the range read and the multiplexer can answer -/

theorem State.rtRead_congr {s u : State} (htab : u.regTab = s.regTab) (a n : Word) : u.rtRead a n = s.rtRead a n := by
  unfold State.rtRead State.tableLen State.memRead
  rw [htab]

theorem State.select_congr {s u : State} (hid : u.slaveId = s.slaveId) (htab : u.regTab = s.regTab) (d : Request) :
    u.select d = s.select d := by
  unfold State.select
  rw [hid, State.rtRead_congr htab]

/-- The rows of the multiplexer for a request that is not malformed, each with its condition (R106, rows 2 to 5). -/
theorem State.select_cases (s : State) (d : Request) :
    (d.id ≠ s.slaveId ∧ s.select d = .notAddressed) ∨
    (d.id = s.slaveId ∧ d.fc ≠ fcReadHolding ∧ s.select d = .exception excIllegalFunction) ∨
    (d.id = s.slaveId ∧ d.fc = fcReadHolding ∧ s.tableLen < d.addr.toNat + d.qty.toNat ∧
      s.select d = .exception excIllegalDataAddress) ∨
    (d.id = s.slaveId ∧ d.fc = fcReadHolding ∧ d.addr.toNat + d.qty.toNat ≤ s.tableLen ∧
      s.select d = .data (s.memRead d.addr.toNat d.qty.toNat)) := by
  by_cases hid : d.id = s.slaveId
  · by_cases hfc : d.fc = fcReadHolding
    · rcases Nat.lt_or_ge s.tableLen (d.addr.toNat + d.qty.toNat) with hrange | hrange
      · exact .inr (.inr (.inl ⟨hid, hfc, hrange, State.select_of_outOfRange hid hfc hrange⟩))
      · exact .inr (.inr (.inr ⟨hid, hfc, hrange, State.select_of_inRange hid hfc hrange⟩))
    · exact .inr (.inl ⟨hid, hfc, State.select_of_otherFunction hid hfc⟩)
  · exact .inl ⟨hid, State.select_of_foreign hid⟩

theorem State.answer_of_select_data_aboveCapacity {s : State} {d : Request} {vs : List Word} (hsel : s.select d = .data vs)
    (hqty : valCap < d.qty.toNat) : s.answer d = .refused (.quantityAboveCapacity d.qty.toNat) := by
  simp only [State.answer, hsel, if_pos hqty]

theorem State.parseResponse_values_length {s : State} {x : Response} (hx : s.parseResponse = .ok x) {vs : List Word} {c : Word}
    (hvs : x = .values vs c) : vs.length ≤ valCap := by
  obtain rfl | ⟨B, -, rfl⟩ := State.parseResponse_ok hx
  · cases hvs
  · exact decRspFrom3_values_length hvs

/-! ### The frames the machine sends fit the buffer -/

theorem withCrc_requestPayload_fits (id fc : Byte) (addr qty : Word) :
    (withCrc (requestPayload id fc addr qty)).length ≤ Config.bufCap :=
  Nat.le_trans (by decide : 8 ≤ 259) bufCap_ge

theorem withCrc_exceptionPayload_fits (id fc code : Byte) : (withCrc (exceptionPayload id fc code)).length ≤ Config.bufCap :=
  Nat.le_trans (by decide : 5 ≤ 259) bufCap_ge

theorem withCrc_responsePayload_fits (id fc n : Byte) {vs : List Word} (hvs : vs.length ≤ valCap) :
    (withCrc (responsePayload id fc n (bytesOfWords vs))).length ≤ Config.bufCap := by
  have hcap := bufCap_ge
  simp only [withCrc_length, responsePayload, List.length_cons, bytesOfWords_length]
  rw [valCap] at hvs
  omega

/-! ### The shared operations -/

namespace KeptByUpdates

section
variable {r : OperandSet} {R S : State → State → Prop} (hR : KeptByUpdates r R S) {s u : State} (h : R s u)
include hR h

theorem writeCrc (c : Option Word) : R (s.writeCrc c) (u.writeCrc c) := by
  cases c with
  | none => exact h
  | some c => exact hR.crc c h

theorem sendValues (id fc : Byte) {vs : List Word} (hvs : vs.length ≤ valCap) : R (s.sendValues id fc vs) (u.sendValues id fc vs) :=
  hR.sendPayload (withCrc_responsePayload_fits _ _ _ hvs) h

theorem takeException (d : Request) (code : Byte) : S (s.takeException d code) (u.takeException d code) :=
  hR.raise _ (hR.sendPayload (withCrc_exceptionPayload_fits _ _ _) (hR.rExc code h))

theorem applyResponse {x : Response} (hx : ∀ vs c, x = .values vs c → vs.length ≤ valCap) :
    S (s.applyResponse x) (u.applyResponse x) := by
  cases x with
  | malformed c => exact hR.raise _ (hR.writeCrc h c)
  | exceptionReceived e c => exact hR.raise _ (hR.rExc e (hR.crc c h))
  | values vs c => exact hR.raise _ (hR.writeVals (hx vs c rfl) (hR.crc c h))

theorem classify (rx : List Byte) : S (s.classify rx) (u.classify rx) := by
  by_cases hrx : rx = []
  · rw [hrx]
    exact hR.raise _ h
  · rw [State.classify_of_ne_nil s hrx, State.classify_of_ne_nil u hrx]
    exact hR.applyResponse h fun vs c => decRsp_values_length

theorem select (d : Request) : u.select d = s.select d := by
  have hreads := hR.reads h
  exact State.select_congr hreads.slaveId hreads.regTab d

theorem answer (d : Request) : OutcomesAlike S (s.answer d) (u.answer d) := by
  have hsel := hR.select h d
  obtain ⟨-, hs⟩ | ⟨-, -, hs⟩ | ⟨-, -, -, hs⟩ | ⟨-, -, hrange, hs⟩ := State.select_cases s d
  · rw [State.answer_of_select_notAddressed hs, State.answer_of_select_notAddressed (hsel.trans hs)]
    exact .next (hR.raise _ (hR.sendNothing h))
  · rw [State.answer_of_select_exception hs, State.answer_of_select_exception (hsel.trans hs)]
    exact .next (hR.takeException h d _)
  · rw [State.answer_of_select_exception hs, State.answer_of_select_exception (hsel.trans hs)]
    exact .next (hR.takeException h d _)
  · by_cases hqty : d.qty.toNat ≤ valCap
    · have hvs := (State.memRead_spec hrange).1.trans_le hqty
      rw [State.answer_of_select_data hs hqty, State.answer_of_select_data (hsel.trans hs) hqty]
      exact .next (hR.raise _ (hR.sendValues (hR.writeVals hvs h) _ _ hvs))
    · have hcap := Nat.not_le.1 hqty
      rw [State.answer_of_select_data_aboveCapacity hs hcap, State.answer_of_select_data_aboveCapacity (hsel.trans hs) hcap]
      exact .refused _

theorem serveRequest : OutcomesAlike S s.serveRequest u.serveRequest := by
  have hreads := hR.reads h
  have hparse : u.parseRequest = s.parseRequest :=
    State.parseRequest_congr hreads.rxBuf hreads.rxLen hreads.reqCrcCheck
  unfold State.serveRequest
  rw [hparse]
  split
  · exact .fault _
  · exact .next (hR.raise _ (hR.sendNothing (hR.writeCrc h _)))
  · exact hR.answer (hR.writeRequest _ (hR.writeCrc h _)) _

theorem decReq : OutcomesAlike S (execDecReq s) (execDecReq u) := by
  have hreads := hR.reads h
  have hparse : u.parseRequest = s.parseRequest :=
    State.parseRequest_congr hreads.rxBuf hreads.rxLen hreads.reqCrcCheck
  unfold execDecReq
  rw [hparse]
  split
  · exact .fault _
  · exact .next (hR.raise _ (hR.writeCrc h _))
  · exact .next (hR.raise _ (hR.writeRequest _ (hR.writeCrc h _)))

theorem decRsp : OutcomesAlike S (execDecRsp s) (execDecRsp u) := by
  have hreads := hR.reads h
  have hparse : u.parseResponse = s.parseResponse := State.parseResponse_congr hreads.rxBuf hreads.rxLen
  unfold execDecRsp
  rw [hparse]
  split
  · exact .fault _
  · rename_i x hx
    exact .next (hR.applyResponse h fun vs c => State.parseResponse_values_length hx)

theorem receiveFrame (dir : Direction) (bytes : List Byte) : OutcomesAlike S (s.receiveFrame dir bytes) (u.receiveFrame dir bytes) := by
  unfold State.receiveFrame
  split
  · exact .refused _
  · rename_i hfit
    have hstored := hR.storeRx (Nat.not_lt.1 hfit) h
    cases dir with
    | request => exact hR.serveRequest hstored
    | response => exact hR.decRsp hstored

theorem crc16 : OutcomesAlike S (execCrc16 s) (execCrc16 u) := by
  have hreads := hR.reads h
  have hbytes : u.rxBytes u.rxLen = s.rxBytes s.rxLen := by rw [State.rxBytes, State.rxBytes, hreads.rxBuf, hreads.rxLen]
  unfold execCrc16
  rw [hbytes]
  split
  · exact .fault _
  · exact .next (hR.raise _ (hR.crc _ h))

theorem crcByte (hr : r.aByte = true) : OutcomesAlike S (execCrcByte s) (execCrcByte u) := by
  have hreads := hR.reads h
  have hcrc : Machine.crcByte u.crc u.aByte = Machine.crcByte s.crc s.aByte := by rw [hreads.crc, hreads.aByte hr]
  unfold execCrcByte
  rw [hcrc]
  exact .next (hR.raise _ (hR.crc _ h))

theorem sendRequest (hid : r.aId = true) (haddr : r.aAddr = true) (hqty : r.aQty = true) : R s.sendRequest u.sendRequest := by
  have hreads := hR.reads h
  unfold State.sendRequest
  rw [hreads.aId hid, hreads.aAddr haddr, hreads.aQty hqty]
  exact hR.sendPayload (withCrc_requestPayload_fits _ _ _ _) h

theorem exchangeFrame (hid : r.aId = true) (haddr : r.aAddr = true) (hqty : r.aQty = true)
    (hfit : s.transport.nextAnswer.length ≤ Config.bufCap) : R s.exchangeFrame u.exchangeFrame := by
  have hreads := hR.reads h
  have hsent : requestPayload u.aId fcReadHolding u.aAddr u.aQty = requestPayload s.aId fcReadHolding s.aAddr s.aQty := by
    rw [hreads.aId hid, hreads.aAddr haddr, hreads.aQty hqty]
  unfold State.exchangeFrame
  rw [hsent, hreads.transport]
  exact hR.storeRx hfit (hR.transport _ h)

theorem query (hid : r.aId = true) (haddr : r.aAddr = true) (hqty : r.aQty = true) :
    OutcomesAlike S (execQuery s) (execQuery u) := by
  have hreads := hR.reads h
  rw [execQuery_eq, execQuery_eq, hreads.transport]
  split
  · exact .refused _
  · rename_i hfit
    exact .next (hR.classify (hR.exchangeFrame (hR.sendRequest h hid haddr hqty) hid haddr hqty (Nat.not_lt.1 hfit)) _)

theorem encExc (hid : r.aId = true) (hfc : r.aFc = true) (hexc : r.aExc = true) :
    OutcomesAlike S (execEncExc s) (execEncExc u) := by
  have hreads := hR.reads h
  unfold execEncExc
  rw [hreads.aId hid, hreads.aFc hfc, hreads.aExc hexc]
  exact .next (hR.raise _ (hR.sendPayload (withCrc_exceptionPayload_fits _ _ _) h))

theorem encRsp (hid : r.aId = true) (hfc : r.aFc = true) (hval : r.val = true) :
    OutcomesAlike S (execEncRsp s) (execEncRsp u) := by
  have hreads := hR.reads h
  unfold execEncRsp
  rw [hreads.aId hid, hreads.aFc hfc, hreads.valN hval, hreads.valSeq hval]
  split
  · exact .refused _
  · rename_i hcap
    have hvs := Nat.not_lt.1 hcap
    exact .next (hR.raise _ (hR.sendValues h _ _ ((State.valSeq_length hvs).trans_le hvs)))

theorem rtRead (haddr : r.aAddr = true) (hqty : r.aQty = true) : OutcomesAlike S (execRtRead s) (execRtRead u) := by
  have hreads := hR.reads h
  unfold execRtRead
  rw [hreads.aAddr haddr, hreads.aQty hqty, State.rtRead_congr hreads.regTab]
  split
  · exact .next (hR.raise _ h)
  · rename_i vs hvs
    split
    · exact .refused _
    · rename_i hcap
      exact .next (hR.raise _ (hR.writeVals ((State.rtRead_length hvs).trans_le (Nat.not_lt.1 hcap)) h))

end

/-! ### Every instruction -/

theorem exec {i : Instr} {R S : State → State → Prop} (hR : KeptByUpdates (operandsOf i) R S) {s u : State} (h : R s u) :
    OutcomesAlike S (exec i s) (exec i u) := by
  cases i with
  | crcInit => exact .next (hR.raise _ (hR.crc _ h))
  | crcByte => exact hR.crcByte h rfl
  | crc16 => exact hR.crc16 h
  | encReq => exact .next (hR.raise _ (hR.sendRequest h rfl rfl rfl))
  | encExc => exact hR.encExc h rfl rfl rfl
  | encRsp => exact hR.encRsp h rfl rfl rfl
  | decReq => exact hR.decReq h
  | decRsp => exact hR.decRsp h
  | rtRead => exact hR.rtRead h rfl rfl
  | respond => exact hR.serveRequest h
  | query => exact hR.query h rfl rfl rfl
  | reservedOp0 | reservedOpC | reservedOpD | reservedOpE | reservedOpF => exact .refused _
  | frameReqReadHolding =>
    rw [exec_frameReqReadHolding, exec_frameReqReadHolding]
    exact hR.receiveFrame h _ _
  | frameReqOtherFunction =>
    rw [exec_frameReqOtherFunction, exec_frameReqOtherFunction]
    exact hR.receiveFrame h _ _
  | frameRspNormal =>
    rw [exec_frameRspNormal, exec_frameRspNormal]
    exact hR.receiveFrame h _ _
  | frameRspException =>
    rw [exec_frameRspException, exec_frameRspException]
    exact hR.receiveFrame h _ _

end KeptByUpdates

end Sys2Proof.Machine
end

section
/-! The invariants of a run (10_state.md R12, R15, R17; 30_encoding.md R50; 41_encode.md R84): a predicate of one state that the
updates keep is kept by every instruction, and with the host's writes and resets by every step. -/

namespace Sys2Proof.Machine

open Sys2Proof.Safety

/-- `Q` is kept by each update that instructions are made of. -/
structure InvariantOfUpdates (Q : State → Prop) : Prop where
  raise {s : State} (x : Status) : Q s → Q (s.raise x)
  crc {s : State} (c : Word) : Q s → Q { s with crc := c }
  rExc {s : State} (e : Byte) : Q s → Q { s with rExc := e }
  transport {s : State} (t : Transport) : Q s → Q { s with transport := t }
  writeRequest {s : State} (d : Request) : Q s → Q (s.writeRequest d)
  writeVals {s : State} {vs : List Word} : vs.length ≤ valCap → Q s → Q (s.writeVals vs)
  sendPayload {s : State} {P : List Byte} : (withCrc P).length ≤ Config.bufCap → Q s → Q (s.sendPayload P)
  sendNothing {s : State} : Q s → Q s.sendNothing
  storeRx {s : State} {rx : List Byte} : rx.length ≤ Config.bufCap → Q s → Q (s.storeRx rx)

namespace InvariantOfUpdates

section
variable {Q : State → Prop} (hQ : InvariantOfUpdates Q) {s t : State}
include hQ

/-- An invariant as a relation of a state with itself. -/
theorem keptByUpdates (r : OperandSet) : KeptByUpdates r (fun s u => s = u ∧ Q s) (fun t t' => t = t' ∧ Q t) where
  reads := by rintro s _ ⟨rfl, -⟩; exact ReadsAlike.refl r s
  raise x := by rintro ⟨rfl, hs⟩; exact ⟨rfl, hQ.raise x hs⟩
  crc c := by rintro ⟨rfl, hs⟩; exact ⟨rfl, hQ.crc c hs⟩
  rExc e := by rintro ⟨rfl, hs⟩; exact ⟨rfl, hQ.rExc e hs⟩
  transport t := by rintro ⟨rfl, hs⟩; exact ⟨rfl, hQ.transport t hs⟩
  writeRequest d := by rintro ⟨rfl, hs⟩; exact ⟨rfl, hQ.writeRequest d hs⟩
  writeVals hvs := by rintro ⟨rfl, hs⟩; exact ⟨rfl, hQ.writeVals hvs hs⟩
  sendPayload hP := by rintro ⟨rfl, hs⟩; exact ⟨rfl, hQ.sendPayload hP hs⟩
  sendNothing := by rintro s _ ⟨rfl, hs⟩; exact ⟨rfl, hQ.sendNothing hs⟩
  storeRx hrx := by rintro ⟨rfl, hs⟩; exact ⟨rfl, hQ.storeRx hrx hs⟩

theorem exec {i : Instr} (h : exec i s = .next t) (hs : Q s) : Q t := by
  have halike := (hQ.keptByUpdates (operandsOf i)).exec (s := s) ⟨rfl, hs⟩
  rw [h] at halike
  obtain ⟨_, -, -, ht⟩ := halike.of_next
  exact ht

theorem receiveFrame {dir : Direction} {bytes : List Byte} (h : s.receiveFrame dir bytes = .next t) (hs : Q s) : Q t := by
  have halike := (hQ.keptByUpdates {}).receiveFrame (s := s) ⟨rfl, hs⟩ dir bytes
  rw [h] at halike
  obtain ⟨_, -, -, ht⟩ := halike.of_next
  exact ht

theorem runCommand {c : Command} (h : s.runCommand c = .next t) (hs : Q s) : Q t := by
  cases c with
  | op code => exact hQ.exec h hs
  | frame dir bytes =>
    simp only [State.runCommand] at h
    split at h
    · exact hQ.exec h hs
    · exact hQ.receiveFrame h hs

/-- An invariant that the host's writes and resets keep too is kept by every step. -/
theorem step (hhost : ∀ (s : State) (rest : List HostStep), Q s → Q { s with host := rest })
    (hwrite : ∀ (s t : State) (w : HostWrite), s.hostWrite w = .next t → Q s → Q t)
    (hreset : ∀ (s t : State) (p : Params), s.hostReset p = .next t → Q s → Q t) (h : step s = .next t) (hs : Q s) : Q t := by
  cases hsteps : s.host with
  | nil =>
    rw [step_of_host_nil hsteps] at h
    cases h
    exact hs
  | cons a rest =>
    have hrest := hhost s rest hs
    cases a with
    | command c =>
      rw [step_of_host_command hsteps] at h
      exact hQ.runCommand h hrest
    | write w =>
      rw [step_of_host_write hsteps] at h
      exact hwrite _ _ w h hrest
    | read =>
      rw [step_of_host_read hsteps] at h
      cases h
      exact hrest
    | reset p =>
      rw [step_of_host_reset hsteps] at h
      exact hreset _ _ p h hrest

end

end InvariantOfUpdates

/-! ### What the host's writes and resets do -/

theorem State.hostWrite_rxByte_next {s t : State} {i : Nat} {v : Byte} (h : s.hostWrite (.rxByte i v) = .next t) :
    i < Config.bufCap ∧ t = { s with rxBuf := Memory.write s.rxBuf i v } := by
  simp only [State.hostWrite] at h
  split at h
  · rename_i hi
    cases h
    exact ⟨hi, rfl⟩
  · cases h

theorem State.hostWrite_rxLen_next {s t : State} {n : Nat} (h : s.hostWrite (.rxLen n) = .next t) :
    n ≤ Config.bufCap ∧ t = { s with rxLen := n } := by
  simp only [State.hostWrite] at h
  split at h
  · rename_i hn
    cases h
    exact ⟨hn, rfl⟩
  · cases h

theorem State.hostReset_next {s t : State} {p : Params} (h : s.hostReset p = .next t) :
    p.regTabInit.length ≤ Config.maxTableLen ∧ t = { State.resetWith p with host := s.host, transport := s.transport } := by
  unfold State.hostReset at h
  split at h
  · cases h
  · rename_i hlen
    cases h
    exact ⟨Nat.not_lt.1 hlen, rfl⟩

theorem Memory.read_writeBytes_of_fits {m : Memory} {F : List Byte} (hm : ∀ i, Config.bufCap ≤ i → Memory.read m i = none)
    (hF : F.length ≤ Config.bufCap) : ∀ i, Config.bufCap ≤ i → Memory.read (Memory.writeBytes m 0 F) i = none := by
  intro i hi
  rw [Memory.read_writeBytes, if_neg (by omega)]
  exact hm i hi

end Sys2Proof.Machine

namespace Sys2Proof.Safety

open Sys2Proof.Machine

/-! ### The bounds and forms of the state -/

/-- The invariant speaks of these six elements alone. -/
theorem Inv.of_eq {s t : State} (h : Inv s) (hrxBuf : t.rxBuf = s.rxBuf) (hrxLen : t.rxLen = s.rxLen) (htxBuf : t.txBuf = s.txBuf)
    (htxLen : t.txLen = s.txLen) (hvalN : t.valN = s.valN) (htab : t.regTab = s.regTab) : Inv t where
  rxForm := hrxBuf ▸ h.rxForm
  rxBelow := hrxBuf ▸ h.rxBelow
  rxLen := hrxLen ▸ h.rxLen
  txForm := htxBuf ▸ h.txForm
  txBelow := htxBuf ▸ h.txBelow
  txLen := htxLen ▸ h.txLen
  valN := hvalN ▸ h.valN
  tableLen := (congrArg List.length htab).trans_le h.tableLen

theorem inv_of_updates : InvariantOfUpdates Inv where
  raise _ h := h.of_eq rfl rfl rfl rfl rfl rfl
  crc _ h := h.of_eq rfl rfl rfl rfl rfl rfl
  rExc _ h := h.of_eq rfl rfl rfl rfl rfl rfl
  transport _ h := h.of_eq rfl rfl rfl rfl rfl rfl
  writeRequest _ h := h.of_eq rfl rfl rfl rfl rfl rfl
  writeVals hvs h := { h with valN := hvs }
  sendPayload hP h :=
    { h with
      txForm := Memory.wf_writeBytes 0 _ h.txForm
      txBelow := Memory.read_writeBytes_of_fits h.txBelow hP
      txLen := hP }
  sendNothing h := { h with txLen := Nat.zero_le _ }
  storeRx hrx h :=
    { h with
      rxForm := Memory.wf_writeBytes 0 _ h.rxForm
      rxBelow := Memory.read_writeBytes_of_fits h.rxBelow hrx
      rxLen := hrx }

theorem Inv.hostWrite {s t : State} {w : HostWrite} (h : s.hostWrite w = .next t) (hs : Inv s) : Inv t := by
  cases w with
  | valN n => cases h; exact { hs with valN := Nat.le_of_lt_succ n.isLt }
  | rxByte i v =>
    obtain ⟨hi, rfl⟩ := State.hostWrite_rxByte_next h
    refine { hs with rxForm := Memory.wf_write i v hs.rxForm, rxBelow := fun a ha => ?_ }
    rw [Memory.read_write, if_neg (by omega)]
    exact hs.rxBelow a ha
  | rxLen n =>
    obtain ⟨hn, rfl⟩ := State.hostWrite_rxLen_next h
    exact { hs with rxLen := hn }
  | readOnly r => cases h
  | _ => cases h; exact hs.of_eq rfl rfl rfl rfl rfl rfl

theorem inv_resetWith {p : Params} (hp : p.regTabInit.length ≤ Config.maxTableLen) : Inv (State.resetWith p) where
  rxForm := rfl
  rxBelow _ _ := rfl
  rxLen := Nat.zero_le _
  txForm := rfl
  txBelow _ _ := rfl
  txLen := Nat.zero_le _
  valN := Nat.zero_le _
  tableLen := hp

theorem Inv.hostReset {s t : State} {p : Params} (h : s.hostReset p = .next t) : Inv t := by
  obtain ⟨hp, rfl⟩ := State.hostReset_next h
  exact (inv_resetWith hp).of_eq rfl rfl rfl rfl rfl rfl

/-! ### The frame to send -/

theorem TxFrameValid.of_eq {s t : State} (h : TxFrameValid s) (htxBuf : t.txBuf = s.txBuf) (htxLen : t.txLen = s.txLen) :
    TxFrameValid t := by
  rwa [TxFrameValid, State.txFrame, htxBuf, htxLen]

theorem txFrameValid_sendPayload (s : State) (P : List Byte) : TxFrameValid (s.sendPayload P) :=
  .inr ⟨P, Memory.readBytes_writeBytes _ _⟩

theorem txFrameValid_of_updates : InvariantOfUpdates TxFrameValid where
  raise _ h := h.of_eq rfl rfl
  crc _ h := h.of_eq rfl rfl
  rExc _ h := h.of_eq rfl rfl
  transport _ h := h.of_eq rfl rfl
  writeRequest _ h := h.of_eq rfl rfl
  writeVals _ h := h.of_eq rfl rfl
  sendPayload _ _ := txFrameValid_sendPayload _ _
  sendNothing _ := .inl rfl
  storeRx _ h := h.of_eq rfl rfl

/-- The host may write neither `TXBUF` nor `TXLEN` (R21). -/
theorem TxFrameValid.hostWrite {s t : State} {w : HostWrite} (h : s.hostWrite w = .next t) (hs : TxFrameValid s) :
    TxFrameValid t := by
  cases w with
  | rxByte i v =>
    obtain ⟨-, rfl⟩ := State.hostWrite_rxByte_next h
    exact hs.of_eq rfl rfl
  | rxLen n =>
    obtain ⟨-, rfl⟩ := State.hostWrite_rxLen_next h
    exact hs.of_eq rfl rfl
  | readOnly r => cases h
  | _ => cases h; exact hs.of_eq rfl rfl

theorem TxFrameValid.hostReset {s t : State} {p : Params} (h : s.hostReset p = .next t) : TxFrameValid t := by
  obtain ⟨-, rfl⟩ := State.hostReset_next h
  exact .inl rfl

/-! ### The operand registers -/

/-- The operand registers and the host steps to come are those of `s₀`. -/
def OperandsKept (s₀ t : State) : Prop :=
  t.aId = s₀.aId ∧ t.aFc = s₀.aFc ∧ t.aAddr = s₀.aAddr ∧ t.aQty = s₀.aQty ∧ t.aExc = s₀.aExc ∧ t.aByte = s₀.aByte ∧
    t.host = s₀.host

theorem operandsKept_of_updates (s₀ : State) : InvariantOfUpdates (OperandsKept s₀) where
  raise _ h := h
  crc _ h := h
  rExc _ h := h
  transport _ h := h
  writeRequest _ h := h
  writeVals _ h := h
  sendPayload _ h := h
  sendNothing h := h
  storeRx _ h := h

end Sys2Proof.Safety

namespace Sys2Proof.Proofs

open Sys2Proof.Machine Sys2Proof.Safety

/-- Settles O44: each update of an instruction keeps the bounds and forms, and so do the host's writes and resets. -/
theorem everyStepKeepsTheInvariant : Obligations.EveryStepKeepsTheInvariant := by
  unfold Obligations.EveryStepKeepsTheInvariant
  intro s t hs hstep
  exact inv_of_updates.step (fun _ _ h => h.of_eq rfl rfl rfl rfl rfl rfl) (fun _ _ _ h hs => hs.hostWrite h)
    (fun _ _ _ h _ => .hostReset h) hstep hs

/-- Settles O46: `TXBUF` and `TXLEN` change only where a payload is sent with its CRC, or nothing is to be sent. -/
theorem everyStepKeepsTheFrameToSendValid : Obligations.EveryStepKeepsTheFrameToSendValid := by
  unfold Obligations.EveryStepKeepsTheFrameToSendValid
  intro s t hs hstep
  exact txFrameValid_of_updates.step (fun _ _ h => h.of_eq rfl rfl) (fun _ _ _ h hs => hs.hostWrite h)
    (fun _ _ _ h _ => .hostReset h) hstep hs

/-- Settles O45: the configured table is cut at its bound, nothing is to be sent, and both buffers are empty. -/
theorem resetMeetsTheInvariant : Obligations.ResetMeetsTheInvariant := by
  unfold Obligations.ResetMeetsTheInvariant
  refine ⟨inv_resetWith (List.length_take_le _ _), .inl rfl, fun a => ⟨rfl, rfl⟩⟩

/-- Settles O48: no update of an instruction touches an operand register or the host steps to come. -/
theorem operationsNeverWriteOperands : Obligations.OperationsNeverWriteOperands := by
  unfold Obligations.OperationsNeverWriteOperands
  intro i s t h
  exact (operandsKept_of_updates s).exec h ⟨rfl, rfl, rfl, rfl, rfl, rfl, rfl⟩

end Sys2Proof.Proofs
end

section
/-! What no instruction reads (10_state.md R10, R11, R14, R23): `STATUS`, the operand registers its rule does not list, the values
chosen for registers that nothing has written, the result registers. Each is a relation between states that the updates keep. -/

namespace Sys2Proof.Safety

open Sys2Proof.Machine

theorem eq_mapNext_of_outcomesAlike {f : State → State} {a b : Host.Outcome State Fault Refusal}
    (h : OutcomesAlike (fun t t' => t' = f t) a b) : b = mapNext f a := by
  cases h with
  | next h => exact congrArg _ h
  | fault => rfl
  | refused => rfl

theorem eq_of_outcomesAlike {a b : Host.Outcome State Fault Refusal} (h : OutcomesAlike Eq a b) : b = a := by
  cases h with
  | next h => exact congrArg _ h.symm
  | fault => rfl
  | refused => rfl

/-! ### `STATUS` (R14) -/

/-- Every outcome is raised at the end, so what `STATUS` held before is gone. -/
theorem statusReplaced_kept (r : OperandSet) :
    KeptByUpdates r (fun s u => u = { s with status := u.status }) Eq where
  reads h := by rw [h]; exact { ReadsAlike.refl r _ with }
  raise x h := by rw [h]; rfl
  crc c h := by rw [h]
  rExc e h := by rw [h]
  transport t h := by rw [h]
  writeRequest d h := by rw [h]; rfl
  writeVals _ h := by rw [h]; rfl
  sendPayload _ h := by rw [h]; rfl
  sendNothing h := by rw [h]; rfl
  storeRx _ h := by rw [h]; rfl

/-! ### The operand registers a rule does not list (R10) -/

theorem replaceUnlisted_kept (r : OperandSet) (j : State) :
    KeptByUpdates r (fun s u => u = replaceUnlisted r j s) (fun s u => u = replaceUnlisted r j s) where
  reads := by
    rintro s _ rfl
    exact { ReadsAlike.refl r s with
      aId := fun h => if_pos h, aFc := fun h => if_pos h, aAddr := fun h => if_pos h, aQty := fun h => if_pos h,
      aExc := fun h => if_pos h, aByte := fun h => if_pos h }
  raise x := by rintro rfl; rfl
  crc c := by rintro rfl; rfl
  rExc e := by rintro rfl; rfl
  transport t := by rintro rfl; rfl
  writeRequest d := by rintro rfl; rfl
  writeVals _ := by rintro rfl; rfl
  sendPayload _ := by rintro rfl; rfl
  sendNothing := by rintro s _ rfl; rfl
  storeRx _ := by rintro rfl; rfl

/-! ### Registers that nothing has written (R23) -/

theorem operandsWritten_iff {i : Instr} {s : State} :
    operandsWritten i s = true ↔
      ((operandsOf i).aId = true → s.written.aId = true) ∧ ((operandsOf i).aFc = true → s.written.aFc = true) ∧
      ((operandsOf i).aAddr = true → s.written.aAddr = true) ∧ ((operandsOf i).aQty = true → s.written.aQty = true) ∧
      ((operandsOf i).aExc = true → s.written.aExc = true) ∧ ((operandsOf i).aByte = true → s.written.aByte = true) ∧
      ((operandsOf i).val = true → (s.written.val.toList.take s.valN).all id = true) := by
  simp only [operandsWritten, Bool.and_eq_true, Bool.or_eq_true, Bool.not_eq_true', and_assoc, Bool.eq_false_iff, ne_eq,
    ← imp_iff_not_or]

theorem take_all_id_iff {V : Vector Bool 127} {n : Nat} :
    (V.toList.take n).all id = true ↔ ∀ k (hk : k < 127), k < n → V[k] = true := by
  simp only [List.all_eq_true, List.mem_iff_getElem, List.getElem_take, id_eq, forall_exists_index, List.length_take,
    Vector.length_toList, lt_min_iff]
  constructor
  · intro h k hk hn
    exact h _ k ⟨hn, hk⟩ rfl
  · rintro h x k ⟨hn, hk⟩ rfl
    exact h k hk hn

theorem valSeq_replaceUnwritten {j s : State} (h : (s.written.val.toList.take s.valN).all id = true) :
    (replaceUnwritten j s).valSeq = s.valSeq := by
  refine List.ext_getElem (by simp [State.valSeq, replaceUnwritten]) fun k hk hk' => ?_
  obtain ⟨hlt, hget⟩ := State.valSeq_get k hk
  have hget' := (State.valSeq_get k hk').2
  have hN : k < s.valN := Nat.lt_of_lt_of_le hk' (List.length_take_le _ _)
  rw [hget, hget']
  simp [replaceUnwritten, take_all_id_iff.1 h k hlt hN]

theorem replaceUnwritten_writeVals (j s : State) (vs : List Word) :
    replaceUnwritten j (s.writeVals vs) = (replaceUnwritten j s).writeVals vs := by
  have hval : (replaceUnwritten j (s.writeVals vs)).val = ((replaceUnwritten j s).writeVals vs).val := by
    refine Vector.ext fun k hk => ?_
    by_cases hlen : k < vs.length <;> simp [replaceUnwritten, hlen]
  calc replaceUnwritten j (s.writeVals vs)
      = { (replaceUnwritten j s).writeVals vs with val := (replaceUnwritten j (s.writeVals vs)).val } := rfl
    _ = (replaceUnwritten j s).writeVals vs := by rw [hval]

theorem operandsWritten_writeVals {i : Instr} {s : State} (vs : List Word) (h : operandsWritten i s = true) :
    operandsWritten i (s.writeVals vs) = true := by
  obtain ⟨hid, hfc, haddr, hqty, hexc, hbyte, -⟩ := operandsWritten_iff.1 h
  refine operandsWritten_iff.2 ⟨hid, hfc, haddr, hqty, hexc, hbyte, fun _ => take_all_id_iff.2 fun k hk hlt => ?_⟩
  rw [State.writeVals_valN] at hlt
  simp [hlt]

/-- What nothing has written is not read where the instruction's registers are written, and every update keeps them so. -/
theorem replaceUnwritten_kept (i : Instr) (j : State) :
    KeptByUpdates (operandsOf i) (fun s u => operandsWritten i s = true ∧ u = replaceUnwritten j s)
      (fun s u => u = replaceUnwritten j s) where
  reads := by
    rintro s _ ⟨hw, rfl⟩
    obtain ⟨hid, hfc, haddr, hqty, hexc, hbyte, hval⟩ := operandsWritten_iff.1 hw
    exact { ReadsAlike.refl (operandsOf i) s with
      aId := fun h => if_pos (hid h), aFc := fun h => if_pos (hfc h), aAddr := fun h => if_pos (haddr h),
      aQty := fun h => if_pos (hqty h), aExc := fun h => if_pos (hexc h), aByte := fun h => if_pos (hbyte h),
      valSeq := fun h => valSeq_replaceUnwritten (hval h) }
  raise x := by rintro ⟨-, rfl⟩; rfl
  crc c := by rintro ⟨hw, rfl⟩; exact ⟨hw, rfl⟩
  rExc e := by rintro ⟨hw, rfl⟩; exact ⟨hw, rfl⟩
  transport t := by rintro ⟨hw, rfl⟩; exact ⟨hw, rfl⟩
  writeRequest d := by rintro ⟨hw, rfl⟩; exact ⟨hw, rfl⟩
  writeVals _ := by
    rintro ⟨hw, rfl⟩
    exact ⟨operandsWritten_writeVals _ hw, (replaceUnwritten_writeVals j _ _).symm⟩
  sendPayload _ := by rintro ⟨hw, rfl⟩; exact ⟨hw, rfl⟩
  sendNothing := by rintro s _ ⟨hw, rfl⟩; exact ⟨hw, rfl⟩
  storeRx _ := by rintro ⟨hw, rfl⟩; exact ⟨hw, rfl⟩

end Sys2Proof.Safety

namespace Sys2Proof.Claims

open Sys2Proof.Machine Sys2Proof.Safety

/-! ### The result registers (R11, R12) -/

theorem writtenAlike_refl {α : Type} (x x' : α) : WrittenAlike x x' x x' := .inr ⟨rfl, rfl⟩

theorem writtenAlike_of_eq {α : Type} (x x' y : α) : WrittenAlike x x' y y := .inl rfl

theorem resultsAlike_refl (s u : State) : ResultsAlike s u s u :=
  ⟨writtenAlike_refl _ _, writtenAlike_refl _ _, writtenAlike_refl _ _, writtenAlike_refl _ _, writtenAlike_refl _ _,
    fun _ _ => writtenAlike_refl _ _⟩

/-- From `s` and `u`, which differ in the result registers and `VAL` alone, the runs have come to `t` and `t'`. -/
structure ResultRuns (r : OperandSet) (s u t t' : State) : Prop where
  same : SameButResults t t'
  alike : ResultsAlike s u t t'
  val : r.val = true → t'.val = t.val

theorem resultsAlike_writeVals {s u t t' : State} (vs : List Word) (h : ResultsAlike s u t t') :
    ResultsAlike s u (t.writeVals vs) (t'.writeVals vs) := by
  obtain ⟨hid, hfc, haddr, hqty, hexc, hval⟩ := h
  refine ⟨hid, hfc, haddr, hqty, hexc, fun k hk => ?_⟩
  by_cases hlen : k < vs.length
  · simp only [State.writeVals_val, setFrom_zero_get, dif_pos hlen]
    exact writtenAlike_of_eq _ _ _
  · simp only [State.writeVals_val, setFrom_zero_get, dif_neg hlen]
    exact hval k hk

theorem resultRuns_kept (r : OperandSet) (s u : State) : KeptByUpdates r (ResultRuns r s u) (ResultRuns r s u) where
  reads := by
    rintro t t' ⟨hsame, -, hval⟩
    have hvalN : t'.valN = t.valN := by rw [hsame]
    have hvalSeq (hr : r.val = true) : t'.valSeq = t.valSeq := by rw [State.valSeq, State.valSeq, hval hr, hvalN]
    rw [hsame] at hvalSeq ⊢
    exact { ReadsAlike.refl r t with valSeq := hvalSeq }
  raise x h := ⟨by rw [SameButResults, h.same]; rfl, h.alike, h.val⟩
  crc c h := ⟨by rw [SameButResults, h.same], h.alike, h.val⟩
  rExc e h := by
    obtain ⟨hsame, ⟨hid, hfc, haddr, hqty, -, hval⟩, hv⟩ := h
    exact ⟨by rw [SameButResults, hsame], ⟨hid, hfc, haddr, hqty, writtenAlike_of_eq _ _ _, hval⟩, hv⟩
  transport t h := ⟨by rw [SameButResults, h.same], h.alike, h.val⟩
  writeRequest d h := by
    obtain ⟨hsame, ⟨-, -, -, -, hexc, hval⟩, hv⟩ := h
    exact ⟨by rw [SameButResults, hsame]; rfl,
      ⟨writtenAlike_of_eq _ _ _, writtenAlike_of_eq _ _ _, writtenAlike_of_eq _ _ _, writtenAlike_of_eq _ _ _, hexc, hval⟩, hv⟩
  writeVals _ h :=
    ⟨by rw [SameButResults, h.same]; rfl, resultsAlike_writeVals _ h.alike, fun hr => congrArg (setFrom _ 0) (h.val hr)⟩
  sendPayload _ h := ⟨by rw [SameButResults, h.same]; rfl, h.alike, h.val⟩
  sendNothing h := ⟨by rw [SameButResults, h.same]; rfl, h.alike, h.val⟩
  storeRx _ h := ⟨by rw [SameButResults, h.same]; rfl, h.alike, h.val⟩

end Sys2Proof.Claims

namespace Sys2Proof.Proofs

open Sys2Proof.Machine Sys2Proof.Safety Sys2Proof.Claims

/-- Settles O49: exchanging the unlisted operand registers commutes with every update, and the reads agree. -/
theorem unlistedOperandsDoNotMatter : Obligations.UnlistedOperandsDoNotMatter := by
  unfold Obligations.UnlistedOperandsDoNotMatter
  intro i j s
  exact eq_mapNext_of_outcomesAlike ((replaceUnlisted_kept (operandsOf i) j).exec rfl)

/-- Settles O50: exchanging the unwritten values commutes with every update, and the reads of written registers agree. -/
theorem unwrittenValuesDoNotMatter : Obligations.UnwrittenValuesDoNotMatter := by
  unfold Obligations.UnwrittenValuesDoNotMatter
  intro i j s hw
  exact eq_mapNext_of_outcomesAlike ((replaceUnwritten_kept i j).exec ⟨hw, rfl⟩)

/-- Settles O51: with another `STATUS` the reads agree, and the outcome raised at the end makes the states equal. -/
theorem statusIsWrittenAndNeverRead : Obligations.StatusIsWrittenAndNeverRead := by
  unfold Obligations.StatusIsWrittenAndNeverRead
  refine ⟨fun i s x => ?_, rfl⟩
  exact eq_of_outcomesAlike ((statusReplaced_kept (operandsOf i)).exec (s := s) (u := { s with status := x }) rfl)

/-- Settles O56: the two runs read alike, and each update writes a result element in both or keeps it in both. -/
theorem resultRegistersAreNeverRead : Obligations.ResultRegistersAreNeverRead := by
  unfold Obligations.ResultRegistersAreNeverRead
  intro i s u hsame hval
  have halike := (resultRuns_kept (operandsOf i) s u).exec (i := i) ⟨hsame, resultsAlike_refl s u, hval⟩
  refine ⟨fun t ht => ?_, fun f hf => ?_, fun r hr => ?_⟩
  · rw [ht] at halike
    obtain ⟨t', ht', hruns⟩ := halike.of_next
    exact ⟨t', ht', hruns.same, hruns.alike⟩
  · rw [hf] at halike
    exact halike.of_fault
  · rw [hr] at halike
    exact halike.of_refused

end Sys2Proof.Proofs
end

section
/-! Which operand registers an instruction reads (10_state.md R10): an unlisted one does not show, by the exchange of all unlisted
registers; a listed one shows in the frame sent, in the range test, or in the CRC. -/

namespace Sys2Proof.Claims

open Sys2Proof.Machine Sys2Proof.Safety

/-! ### An unlisted register does not show -/

/-- If `f` is the exchange of the unlisted registers, on all states with the operand registers of `s`, then it does not show. -/
theorem not_shows_of_unlisted {i : Instr} {f : State → State} (j s : State)
    (hf : ∀ t, OperandsKept s t → replaceUnlisted (operandsOf i) j t = f t) : ¬ Shows i f s := by
  intro hshows
  apply hshows
  rw [← hf s ⟨rfl, rfl, rfl, rfl, rfl, rfl, rfl⟩, Proofs.unlistedOperandsDoNotMatter i j s]
  cases hexec : exec i s with
  | next t => exact congrArg _ (hf t (Proofs.operationsNeverWriteOperands i s t hexec))
  | fault => rfl
  | refused => rfl

section
variable {i : Instr} (s : State)

theorem not_shows_aId (h : (operandsOf i).aId = false) (v : Byte) : ¬ Shows i (fun x => { x with aId := v }) s :=
  not_shows_of_unlisted { s with aId := v } s fun t ⟨_, hfc, haddr, hqty, hexc, hbyte, _⟩ => by
    simp [replaceUnlisted, h, ← hfc, ← haddr, ← hqty, ← hexc, ← hbyte]

theorem not_shows_aFc (h : (operandsOf i).aFc = false) (v : Byte) : ¬ Shows i (fun x => { x with aFc := v }) s :=
  not_shows_of_unlisted { s with aFc := v } s fun t ⟨hid, _, haddr, hqty, hexc, hbyte, _⟩ => by
    simp [replaceUnlisted, h, ← hid, ← haddr, ← hqty, ← hexc, ← hbyte]

theorem not_shows_aAddr (h : (operandsOf i).aAddr = false) (v : Word) : ¬ Shows i (fun x => { x with aAddr := v }) s :=
  not_shows_of_unlisted { s with aAddr := v } s fun t ⟨hid, hfc, _, hqty, hexc, hbyte, _⟩ => by
    simp [replaceUnlisted, h, ← hid, ← hfc, ← hqty, ← hexc, ← hbyte]

theorem not_shows_aQty (h : (operandsOf i).aQty = false) (v : Word) : ¬ Shows i (fun x => { x with aQty := v }) s :=
  not_shows_of_unlisted { s with aQty := v } s fun t ⟨hid, hfc, haddr, _, hexc, hbyte, _⟩ => by
    simp [replaceUnlisted, h, ← hid, ← hfc, ← haddr, ← hexc, ← hbyte]

theorem not_shows_aExc (h : (operandsOf i).aExc = false) (v : Byte) : ¬ Shows i (fun x => { x with aExc := v }) s :=
  not_shows_of_unlisted { s with aExc := v } s fun t ⟨hid, hfc, haddr, hqty, _, hbyte, _⟩ => by
    simp [replaceUnlisted, h, ← hid, ← hfc, ← haddr, ← hqty, ← hbyte]

theorem not_shows_aByte (h : (operandsOf i).aByte = false) (v : Byte) : ¬ Shows i (fun x => { x with aByte := v }) s :=
  not_shows_of_unlisted { s with aByte := v } s fun t ⟨hid, hfc, haddr, hqty, hexc, _, _⟩ => by
    simp [replaceUnlisted, h, ← hid, ← hfc, ← haddr, ← hqty, ← hexc]

end

/-! ### What is sent shows -/

/-- The instruction completes with the payload, closed by its CRC, as the frame to send. -/
def Sends (i : Instr) (s : State) (P : List Byte) : Prop := ∃ t, exec i s = .next t ∧ TxHolds t (closed P)

theorem sends_encReq (s : State) : Sends .encReq s (requestPayload s.aId fcReadHolding s.aAddr s.aQty) :=
  ⟨_, exec_encReq s, txHolds_sendPayload s _ .ok⟩

theorem sends_encExc (s : State) : Sends .encExc s (exceptionPayload s.aId s.aFc s.aExc) :=
  ⟨_, exec_encExc s, txHolds_sendPayload s _ .ok⟩

theorem sends_encRsp {s : State} (hN : s.valN ≤ valCap) : Sends .encRsp s (dataPayload s.aId s.aFc s.valSeq) :=
  ⟨_, exec_encRsp_of_valN_le hN, sendValues_eq_sendPayload s _ _ _ ▸ txHolds_sendPayload s _ .ok⟩

theorem sends_query {s : State} {rest : List (List Byte)} (hans : s.transport.answers = [] :: rest) :
    Sends .query s (requestPayload s.aId fcReadHolding s.aAddr s.aQty) :=
  ⟨_, exec_query_of_answers hans (Nat.zero_le _), queried_txHolds s []⟩

theorem txHolds_unique {s : State} {F G : List Byte} (hF : TxHolds s F) (hG : TxHolds s G) : F = G := by
  have hlen : F.length = G.length := hF.1.symm.trans hG.1
  refine List.ext_getElem? fun k => ?_
  by_cases hk : k < F.length
  · rw [← hF.2 k hk, hG.2 k (hlen ▸ hk)]
  · rw [List.getElem?_eq_none (by omega), List.getElem?_eq_none (by omega)]

theorem closed_injective {P P' : List Byte} (h : closed P = closed P') : P = P' :=
  List.append_inj_left' h rfl

/-- An exchange that keeps the transmit buffer but changes the payload sent shows. -/
theorem shows_of_payload_ne {i : Instr} {f : State → State} {s : State} {P P' : List Byte}
    (hf : ∀ x, (f x).txBuf = x.txBuf ∧ (f x).txLen = x.txLen) (h : Sends i s P) (h' : Sends i (f s) P') (hne : P ≠ P') :
    Shows i f s := by
  obtain ⟨t, ht, htx⟩ := h
  obtain ⟨t', ht', htx'⟩ := h'
  intro heq
  rw [ht, ht'] at heq
  have hft : t' = f t := Host.Outcome.next.inj heq
  obtain ⟨hbuf, hlen⟩ := hf t
  exact hne (closed_injective (txHolds_unique (txHolds_of_eq hbuf hlen htx) (hft ▸ htx')))

/-- An exchange that keeps `STATUS` but changes the outcome shows. -/
theorem shows_of_status_ne {i : Instr} {f : State → State} {s t t' : State} (hf : ∀ x, (f x).status = x.status)
    (h : exec i s = .next t) (h' : exec i (f s) = .next t') (hne : t'.status ≠ t.status) : Shows i f s := by
  intro heq
  rw [h, h'] at heq
  have hft : t' = f t := Host.Outcome.next.inj heq
  exact hne (hft ▸ hf t)

/-! ### A listed register shows -/

/-- A state whose transport answers with silence, so that `QUERY` completes. -/
def unanswered : State := { State.reset with transport := { answers := [[]], taken := 0, trace := [] } }

/-- A state with an empty Register Table: the empty range at register 0 is the only one in range. -/
def tableless : State := State.resetWith { slaveId := 0, regTabInit := [], reqCrcCheck := false }

/-- `RT_READ` of any other range than the empty one at register 0 is out of range where there is no table. -/
theorem shows_rtRead {f : State → State} (hf : ∀ x, (f x).status = x.status) (htab : (f tableless).regTab = [])
    (hrange : 0 < (f tableless).aAddr.toNat + (f tableless).aQty.toNat) : Shows .rtRead f tableless := by
  refine shows_of_status_ne hf (exec_rtRead_inRange (s := tableless) (Nat.le_refl _) (Nat.zero_le _)) (exec_rtRead_outOfRange ?_) nofun
  rw [State.tableLen, htab]
  exact hrange

section
variable {i : Instr}

theorem exists_shows_aId (h : (operandsOf i).aId = true) : ∃ (v : Byte) (s : State), Shows i (fun x => { x with aId := v }) s := by
  cases i with
  | encReq => exact ⟨1, State.reset, shows_of_payload_ne (fun _ => ⟨rfl, rfl⟩) (sends_encReq _) (sends_encReq _) (by decide)⟩
  | encExc => exact ⟨1, State.reset, shows_of_payload_ne (fun _ => ⟨rfl, rfl⟩) (sends_encExc _) (sends_encExc _) (by decide)⟩
  | encRsp =>
    exact ⟨1, State.reset, shows_of_payload_ne (fun _ => ⟨rfl, rfl⟩) (sends_encRsp (Nat.zero_le _)) (sends_encRsp (Nat.zero_le _))
      (by decide)⟩
  | query => exact ⟨1, unanswered, shows_of_payload_ne (fun _ => ⟨rfl, rfl⟩) (sends_query rfl) (sends_query rfl) (by decide)⟩
  | _ => cases h

theorem exists_shows_aFc (h : (operandsOf i).aFc = true) : ∃ (v : Byte) (s : State), Shows i (fun x => { x with aFc := v }) s := by
  cases i with
  | encExc => exact ⟨1, State.reset, shows_of_payload_ne (fun _ => ⟨rfl, rfl⟩) (sends_encExc _) (sends_encExc _) (by decide)⟩
  | encRsp =>
    exact ⟨1, State.reset, shows_of_payload_ne (fun _ => ⟨rfl, rfl⟩) (sends_encRsp (Nat.zero_le _)) (sends_encRsp (Nat.zero_le _))
      (by decide)⟩
  | _ => cases h

theorem exists_shows_aAddr (h : (operandsOf i).aAddr = true) :
    ∃ (v : Word) (s : State), Shows i (fun x => { x with aAddr := v }) s := by
  cases i with
  | encReq => exact ⟨1, State.reset, shows_of_payload_ne (fun _ => ⟨rfl, rfl⟩) (sends_encReq _) (sends_encReq _) (by decide)⟩
  | rtRead => exact ⟨1, tableless, shows_rtRead (fun _ => rfl) rfl (by decide)⟩
  | query => exact ⟨1, unanswered, shows_of_payload_ne (fun _ => ⟨rfl, rfl⟩) (sends_query rfl) (sends_query rfl) (by decide)⟩
  | _ => cases h

theorem exists_shows_aQty (h : (operandsOf i).aQty = true) :
    ∃ (v : Word) (s : State), Shows i (fun x => { x with aQty := v }) s := by
  cases i with
  | encReq => exact ⟨1, State.reset, shows_of_payload_ne (fun _ => ⟨rfl, rfl⟩) (sends_encReq _) (sends_encReq _) (by decide)⟩
  | rtRead => exact ⟨1, tableless, shows_rtRead (fun _ => rfl) rfl (by decide)⟩
  | query => exact ⟨1, unanswered, shows_of_payload_ne (fun _ => ⟨rfl, rfl⟩) (sends_query rfl) (sends_query rfl) (by decide)⟩
  | _ => cases h

theorem exists_shows_aExc (h : (operandsOf i).aExc = true) :
    ∃ (v : Byte) (s : State), Shows i (fun x => { x with aExc := v }) s := by
  cases i with
  | encExc => exact ⟨1, State.reset, shows_of_payload_ne (fun _ => ⟨rfl, rfl⟩) (sends_encExc _) (sends_encExc _) (by decide)⟩
  | _ => cases h

theorem exists_shows_aByte (h : (operandsOf i).aByte = true) :
    ∃ (v : Byte) (s : State), Shows i (fun x => { x with aByte := v }) s := by
  cases i with
  | crcByte =>
    refine ⟨1, State.reset, fun heq => ?_⟩
    have hcrc : crcByte 0xFFFF 1 = crcByte 0xFFFF 0 := congrArg State.crc (Host.Outcome.next.inj heq)
    exact absurd hcrc (by decide)
  | _ => cases h

theorem exists_shows_val (h : (operandsOf i).val = true) :
    ∃ (V : Vector Word 127) (s : State), Shows i (fun x => { x with val := V }) s := by
  cases i with
  | encRsp =>
    refine ⟨Vector.replicate 127 1, { State.reset with valN := 1 }, ?_⟩
    exact shows_of_payload_ne (fun _ => ⟨rfl, rfl⟩) (sends_encRsp (by decide)) (sends_encRsp (by decide)) (by decide)
  | _ => cases h

end

theorem iff_of_not_of_false {b : Bool} {p : Prop} (htrue : b = true → p) (hfalse : b = false → ¬ p) : b = true ↔ p := by
  cases b with
  | false => exact ⟨nofun, fun hp => absurd hp (hfalse rfl)⟩
  | true => exact ⟨htrue, fun _ => rfl⟩

end Sys2Proof.Claims

namespace Sys2Proof.Proofs

open Sys2Proof.Claims

/-- Settles O55: a listed register has a state and a value that show, and an unlisted one has none. -/
theorem operationsReadExactlyTheirOperands : Obligations.OperationsReadExactlyTheirOperands := by
  unfold Obligations.OperationsReadExactlyTheirOperands
  intro i
  exact ⟨iff_of_not_of_false exists_shows_aId fun h ⟨v, s, hs⟩ => not_shows_aId s h v hs,
    iff_of_not_of_false exists_shows_aFc fun h ⟨v, s, hs⟩ => not_shows_aFc s h v hs,
    iff_of_not_of_false exists_shows_aAddr fun h ⟨v, s, hs⟩ => not_shows_aAddr s h v hs,
    iff_of_not_of_false exists_shows_aQty fun h ⟨v, s, hs⟩ => not_shows_aQty s h v hs,
    iff_of_not_of_false exists_shows_aExc fun h ⟨v, s, hs⟩ => not_shows_aExc s h v hs,
    iff_of_not_of_false exists_shows_aByte fun h ⟨v, s, hs⟩ => not_shows_aByte s h v hs,
    exists_shows_val⟩

end Sys2Proof.Proofs
end

section
/-! The host steps (70_reset_and_hazards.md R156; 10_state.md R17, R21): what a command runs, what each host write changes, and what
a frame buffer reads as after a write. -/

namespace Sys2Proof.Machine

/-! ### A command, decoded or not -/

theorem State.runCommand_of_decode_ok {c : Command} {i : Instr} (hdec : decode c = .ok i) (s : State) : s.runCommand c = exec i s := by
  cases c with
  | op code =>
    rw [decode_op] at hdec
    cases hdec
    rfl
  | frame dir bytes =>
    have hframe : decodeFrame dir bytes = .ok i := hdec
    simp only [State.runCommand, hframe]

theorem State.runCommand_of_decode_error {dir : Direction} {bytes : List Byte} {e : DecodeError}
    (hdec : decode (.frame dir bytes) = .error e) (s : State) : s.runCommand (.frame dir bytes) = s.receiveFrame dir bytes := by
  have hframe : decodeFrame dir bytes = .error e := hdec
  simp only [State.runCommand, hframe]

/-! ### Host writes into the buffer and the value file -/

section
variable (s : State)

theorem State.hostWrite_rxByte_of_lt {i : Nat} (hi : i < Config.bufCap) (v : Byte) :
    s.hostWrite (.rxByte i v) = .next { s with rxBuf := Memory.write s.rxBuf i v } := by
  rw [State.hostWrite, if_pos hi]

theorem State.hostWrite_rxByte_of_ge {i : Nat} (hi : Config.bufCap ≤ i) (v : Byte) :
    s.hostWrite (.rxByte i v) = .fault (.outsideBuffer i) := by
  rw [State.hostWrite, if_neg (Nat.not_lt.2 hi)]

theorem State.hostWrite_rxLen_of_le {n : Nat} (hn : n ≤ Config.bufCap) : s.hostWrite (.rxLen n) = .next { s with rxLen := n } := by
  rw [State.hostWrite, if_pos hn]

theorem State.hostWrite_rxLen_of_gt {n : Nat} (hn : Config.bufCap < n) : s.hostWrite (.rxLen n) = .fault (.outsideBuffer n) := by
  rw [State.hostWrite, if_neg (Nat.not_le.2 hn)]

end

theorem getElem_setIfInBounds_eq {α : Type} (V : Vector α 127) (i : Nat) (x : α) {k : Nat} (hk : k < 127) :
    (V.setIfInBounds i x)[k] = if k = i then x else V[k] := by
  rw [Vector.getElem_setIfInBounds]
  exact if_congr eq_comm rfl rfl

end Sys2Proof.Machine

namespace Sys2Proof.Proofs

open Sys2Proof.Machine

/-- Settles O4: a command step is `runCommand`, which runs what the decoder answers and receives what it rejects. -/
theorem stepRunsTheDecodedInstruction : Obligations.StepRunsTheDecodedInstruction := by
  unfold Obligations.StepRunsTheDecodedInstruction
  refine ⟨fun s c rest i hhost hdec => ?_, fun s => step_of_host_nil, fun s dir B rest e hhost hdec => ?_⟩
  · rw [step_of_host_command hhost, State.runCommand_of_decode_ok hdec]
  · rw [step_of_host_command hhost, State.runCommand_of_decode_error hdec]

/-- Settles O7: a write step is `hostWrite`, one case for each target; the bounds of the buffer decide between a write and a fault. -/
theorem hostWritesChangeTheirTargetAlone : Obligations.HostWritesChangeTheirTargetAlone := by
  unfold Obligations.HostWritesChangeTheirTargetAlone
  intro s w rest hhost
  rw [step_of_host_write hhost]
  cases w with
  | val i v =>
    exact ⟨_, rfl, rfl, fun k hk =>
      ⟨getElem_setIfInBounds_eq s.val i.val v hk, getElem_setIfInBounds_eq s.written.val i.val true hk⟩⟩
  | rxByte i v =>
    refine ⟨fun hi => ⟨_, State.hostWrite_rxByte_of_lt _ hi v, rfl, fun a => ?_⟩, fun hi => State.hostWrite_rxByte_of_ge _ hi v⟩
    exact Memory.read_write s.rxBuf i a v
  | rxLen n => exact ⟨fun hn => ⟨_, State.hostWrite_rxLen_of_le _ hn, rfl⟩, State.hostWrite_rxLen_of_gt _⟩
  | readOnly r => rfl
  | _ => exact ⟨_, rfl, rfl⟩

/-- Settles O8: the read-after-write law of a sequence, by induction on the sequence, and the same for the canonical form. -/
theorem bufferReadsWhatWasWritten : Obligations.BufferReadsWhatWasWritten := by
  unfold Obligations.BufferReadsWhatWasWritten
  intro m i F
  exact ⟨Memory.read_writeBytes m i F, Memory.wf_writeBytes i F⟩

end Sys2Proof.Proofs
end

section
/-! The slave responder as a whole (43_responder.md R105 to R107; 30_encoding.md R63; 10_state.md R19): a parsed request is an arrived
one, the outcomes of `RESPOND` by the rows of the multiplexer, and `RESPOND` as the composition of its parts. -/

namespace Sys2Proof.Machine

/-! ### The fields of a request and its six bytes (R51, R91) -/

theorem requestPayload_requestOf : ∀ {B : List Byte}, B.length = 6 →
    requestPayload (requestOf B).id (requestOf B).fc (requestOf B).addr (requestOf B).qty = B
  | [b0, b1, b2, b3, b4, b5], _ => by simp [requestOf, requestPayload, be16]

theorem requestOf_take {B : List Byte} {n : Nat} (hn : 6 ≤ n) : requestOf (B.take n) = requestOf B := by
  simp (disch := omega) only [requestOf, be16, byteAt_take]

theorem requestPayload_requestOf_take {B : List Byte} (h6 : 6 ≤ B.length) :
    requestPayload (requestOf B).id (requestOf B).fc (requestOf B).addr (requestOf B).qty = B.take 6 := by
  rw [← requestOf_take (n := 6) (Nat.le_refl 6)]
  exact requestPayload_requestOf (List.length_take_of_le h6)

/-! ### What a range read writes, the encoder reads back (R83, R100) -/

theorem State.valSeq_writeVals (s : State) {vs : List Word} (hvs : vs.length ≤ valCap) : (s.writeVals vs).valSeq = vs := by
  have hlen := State.valSeq_length (s := s.writeVals vs) hvs
  refine List.ext_getElem hlen fun k hk hk' => ?_
  rw [(State.valSeq_get k hk).2]
  simp [hk']

end Sys2Proof.Machine

namespace Sys2Proof

open Sys2Proof.Machine

theorem exec_respond_of_parse_error {s : State} {k : Nat} (hp : s.parseRequest = .error k) :
    exec .respond s = .fault (.unwrittenByte k) := by
  show s.serveRequest = _
  simp only [State.serveRequest, hp]

/-- `ENC_RSP` after a range read sends the values read. -/
theorem exec_encRsp_of_writeVals (s : State) {vs : List Word} (hvs : vs.length ≤ valCap) (id fc : Byte) (x : Status) :
    exec .encRsp { (s.writeVals vs).raise x with aId := id, aFc := fc } =
      .next ((({ s with aId := id, aFc := fc }.writeVals vs).sendValues id fc vs).raise .ok) := by
  have hseq : State.valSeq { (s.writeVals vs).raise x with aId := id, aFc := fc } = vs := State.valSeq_writeVals s hvs
  rw [exec_encRsp_of_valN_le hvs, hseq]
  rfl

end Sys2Proof

namespace Sys2Proof.Claims

open Sys2Proof.Machine

/-! ### A parsed request has arrived (R91) -/

theorem arrived_of_parsed {s : State} {d : Request} {c : Option Word} (hp : s.parseRequest = .ok (.parsed d c)) : Arrived s d := by
  obtain ⟨h8, ⟨-, B, hB, hcrc, rfl, -⟩ | ⟨hoff, B, hB, rfl, -⟩⟩ := State.parseRequest_parsed hp
  · obtain ⟨hlen, hread⟩ := State.rxBytes_eq_ok.1 hB
    obtain ⟨hlo, hhi⟩ := (crcOk_iff_lo_hi B 6).1 hcrc
    rw [Arrived, six_eq_requestPayload, requestPayload_requestOf_take (by omega)]
    refine ⟨h8, fun i hi => ?_, fun _ => ⟨?_, ?_⟩⟩
    · rw [hread i (by omega), List.getElem?_take_of_lt hi]
    · rw [hread 6 (by omega), getElem?_eq_byteAt B 6 (by omega), hlo]
    · rw [hread 7 (by omega), getElem?_eq_byteAt B 7 (by omega), hhi]
  · obtain ⟨hlen, hread⟩ := State.rxBytes_eq_ok.1 hB
    rw [Arrived, six_eq_requestPayload, requestPayload_requestOf hlen]
    exact ⟨h8, hread, fun hon => absurd (hon.symm.trans hoff) nofun⟩

theorem exec_decReq_of_arrived {s : State} {d : Request} (h : Arrived s d) :
    exec .decReq s = .next ((accepted s d).raise .ok) := by
  rw [exec_decReq_of_parsed (parseRequest_of_arrived h), accepted_eq_writes]

theorem requestMalformed_of_parse {s : State} {c : Option Word} (hp : s.parseRequest = .ok (.malformed c)) : RequestMalformed s := by
  obtain ⟨h8, -⟩ | ⟨h8, hon, B, hB, hcrc, -⟩ := State.parseRequest_malformed hp
  · exact .inl h8
  · obtain ⟨hlen, hread⟩ := State.rxBytes_eq_ok.1 hB
    exact .inr ⟨h8, hon, B, hlen, hread, mt (crcOk_iff_lo_hi B 6).2 (Bool.eq_false_iff.1 hcrc)⟩

/-! ### The refusal of the multiplexer (R107 b) -/

theorem answer_refused_iff {s : State} {d : Request} {r : Refusal} :
    s.answer d = .refused r ↔ d.id = s.slaveId ∧ d.fc = fcReadHolding ∧ ReadRefused s d.addr d.qty r := by
  constructor
  · intro h
    obtain ⟨-, hsel⟩ | ⟨-, -, hsel⟩ | ⟨-, -, -, hsel⟩ | ⟨hid, hfc, hrange, hsel⟩ := State.select_cases s d
    · rw [State.answer_of_select_notAddressed hsel] at h
      cases h
    · rw [State.answer_of_select_exception hsel] at h
      cases h
    · rw [State.answer_of_select_exception hsel] at h
      cases h
    · by_cases hqty : d.qty.toNat ≤ valCap
      · rw [State.answer_of_select_data hsel hqty] at h
        cases h
      · rw [State.answer_of_select_data_aboveCapacity hsel (Nat.not_le.1 hqty)] at h
        cases h
        exact ⟨hid, hfc, hrange, Nat.not_le.1 hqty, rfl⟩
  · rintro ⟨hid, hfc, hrange, hqty, rfl⟩
    exact State.answer_of_select_data_aboveCapacity (State.select_of_inRange hid hfc hrange) hqty

/-! ### Two answers alike (R19) -/

/-- Two states after `RESPOND` agree in status, frame to send and, where a request was parsed, its fields. -/
def SameAnswer (t t' : State) : Prop :=
  t'.status = t.status ∧ t'.txLen = t.txLen ∧ (∀ i, i < t.txLen → Memory.read t'.txBuf i = Memory.read t.txBuf i) ∧
    (t.status ≠ .malformed → t'.rId = t.rId ∧ t'.rFc = t.rFc ∧ t'.rAddr = t.rAddr ∧ t'.rQty = t.rQty)

theorem sameAnswer_of_nothing {t t' : State} {x : Status}
    (hfields : x ≠ .malformed → t'.rId = t.rId ∧ t'.rFc = t.rFc ∧ t'.rAddr = t.rAddr ∧ t'.rQty = t.rQty) :
    SameAnswer (t.sendNothing.raise x) (t'.sendNothing.raise x) :=
  ⟨rfl, rfl, fun _ hi => absurd hi (Nat.not_lt_zero _), hfields⟩

theorem sameAnswer_of_txHolds {t t' : State} {F : List Byte} (hstatus : t'.status = t.status) (ht : TxHolds t F)
    (ht' : TxHolds t' F) (hfields : t'.rId = t.rId ∧ t'.rFc = t.rFc ∧ t'.rAddr = t.rAddr ∧ t'.rQty = t.rQty) : SameAnswer t t' := by
  obtain ⟨hlen, hread⟩ := ht
  obtain ⟨hlen', hread'⟩ := ht'
  refine ⟨hstatus, hlen'.trans hlen.symm, fun i hi => ?_, fun _ => hfields⟩
  rw [hlen] at hi
  rw [hread i hi, hread' i hi]

theorem sameAnswer_of_accepted {s s' : State} {d : Request} (hid : s'.slaveId = s.slaveId) (htab : s'.regTab = s.regTab) :
    OutcomesAlike SameAnswer ((accepted s d).answer d) ((accepted s' d).answer d) := by
  have hsel : (accepted s' d).select d = (accepted s d).select d := State.select_congr hid htab d
  obtain ⟨-, hs⟩ | ⟨-, -, hs⟩ | ⟨-, -, -, hs⟩ | ⟨-, -, -, hs⟩ := State.select_cases (accepted s d) d
  · rw [State.answer_of_select_notAddressed hs, State.answer_of_select_notAddressed (hsel.trans hs)]
    exact .next (sameAnswer_of_nothing fun _ => ⟨rfl, rfl, rfl, rfl⟩)
  · rw [State.answer_of_select_exception hs, State.answer_of_select_exception (hsel.trans hs)]
    exact .next (sameAnswer_of_txHolds rfl (takeException_answers _ d _).1 (takeException_answers _ d _).1 ⟨rfl, rfl, rfl, rfl⟩)
  · rw [State.answer_of_select_exception hs, State.answer_of_select_exception (hsel.trans hs)]
    exact .next (sameAnswer_of_txHolds rfl (takeException_answers _ d _).1 (takeException_answers _ d _).1 ⟨rfl, rfl, rfl, rfl⟩)
  · by_cases hqty : d.qty.toNat ≤ valCap
    · rw [State.answer_of_select_data hs hqty, State.answer_of_select_data (hsel.trans hs) hqty]
      exact .next (sameAnswer_of_txHolds rfl (dataRow_answers _ d.id _).1 (dataRow_answers _ d.id _).1 ⟨rfl, rfl, rfl, rfl⟩)
    · have hcap := Nat.not_le.1 hqty
      rw [State.answer_of_select_data_aboveCapacity hs hcap, State.answer_of_select_data_aboveCapacity (hsel.trans hs) hcap]
      exact .refused _

/-- The parse reads the receive buffer and the check bit, the multiplexer the configuration and the table. -/
theorem sameAnswer_of_sameRequestInput {s s' : State} (h : SameRequestInput s s') :
    OutcomesAlike SameAnswer (exec .respond s) (exec .respond s') := by
  obtain ⟨hbuf, hlen, hid, hcheck, htab⟩ := h
  have hparse : s'.parseRequest = s.parseRequest := State.parseRequest_congr hbuf hlen hcheck
  cases hp : s.parseRequest with
  | error i =>
    rw [exec_respond_of_parse_error hp, exec_respond_of_parse_error (hparse.trans hp)]
    exact .fault _
  | ok p =>
    cases p with
    | malformed c =>
      rw [exec_respond_of_malformed hp, exec_respond_of_malformed (hparse.trans hp)]
      exact .next (sameAnswer_of_nothing fun hne => absurd rfl hne)
    | parsed d c =>
      rw [exec_respond_of_arrived (arrived_of_parsed hp), exec_respond_of_arrived (arrived_of_parsed (hparse.trans hp))]
      exact sameAnswer_of_accepted hid htab

end Sys2Proof.Claims

namespace Sys2Proof.Proofs

open Sys2Proof.Machine Sys2Proof.Claims

/-- Settles O31: the data row is selected, and its values are more than the value file holds. -/
theorem respondRefusesMoreThan127Registers : Obligations.RespondRefusesMoreThan127Registers := by
  unfold Obligations.RespondRefusesMoreThan127Registers
  intro s d harr hid hfc hrange hqty
  rw [exec_respond_of_arrived harr, answer_refused_iff]
  exact ⟨hid, hfc, hrange, hqty, rfl⟩

/-- Settles O32: the parse decides the first row, the multiplexer's selection the other four. -/
theorem multiplexerSelectsOneRow : Obligations.MultiplexerSelectsOneRow := by
  unfold Obligations.MultiplexerSelectsOneRow
  intro s t ht
  obtain ⟨c, hp, rfl⟩ | ⟨d, c, hp, -⟩ := State.serveRequest_next ht
  · refine .inl ⟨requestMalformed_of_parse hp, ?_⟩
    rw [State.writeCrc_eq]
    rfl
  · have harr := arrived_of_parsed hp
    rw [exec_respond_of_arrived harr] at ht
    obtain ⟨hid, hsel⟩ | ⟨hid, hfc, hsel⟩ | ⟨hid, hfc, hrange, hsel⟩ | ⟨hid, hfc, hrange, hsel⟩ :=
      State.select_cases (accepted s d) d
    · rw [State.answer_of_select_notAddressed hsel] at ht
      cases ht
      exact .inr (.inl ⟨harr, hid, rfl⟩)
    · rw [State.answer_of_select_exception hsel] at ht
      cases ht
      exact .inr (.inr (.inl ⟨harr, hid, hfc, takeException_answers (accepted s d) d 1⟩))
    · rw [State.answer_of_select_exception hsel] at ht
      cases ht
      have hans := takeException_answers (accepted s d) d 2
      rw [hfc] at hans
      exact .inr (.inr (.inr (.inl ⟨harr, hid, hfc, hrange, hans⟩)))
    · by_cases hqty : d.qty.toNat ≤ valCap
      · have hregs : (accepted s d).memRead d.addr.toNat d.qty.toNat = registers s d.addr.toNat d.qty.toNat :=
          memRead_eq_registers (s := s) hrange
        have htxLen : 5 + 2 * (registers s d.addr.toNat d.qty.toNat).length = 5 + 2 * d.qty.toNat := by rw [registers_length]
        rw [State.answer_of_select_data hsel hqty, hregs] at ht
        cases ht
        have hans := dataRow_answers (accepted s d) d.id (registers s d.addr.toNat d.qty.toNat)
        rw [htxLen] at hans
        exact .inr (.inr (.inr (.inr ⟨harr, hid, hfc, hrange, hqty, hans⟩)))
      · rw [State.answer_of_select_data_aboveCapacity hsel (Nat.not_le.1 hqty)] at ht
        cases ht

/-- Settles O33: `DEC_REQ` accepts what `RESPOND` parses; each part then does to the decoded fields what a row of the multiplexer does. -/
theorem respondIsTheCompositionOfItsParts : Obligations.RespondIsTheCompositionOfItsParts := by
  unfold Obligations.RespondIsTheCompositionOfItsParts
  intro s t1 ht1 hok hid restore
  obtain ⟨d, harr⟩ : ∃ d, Arrived s d := by
    obtain ⟨c, -, rfl⟩ | ⟨d, c, hp, -⟩ := execDecReq_next ht1
    · cases hok
    · exact ⟨d, arrived_of_parsed hp⟩
  rw [exec_decReq_of_arrived harr] at ht1
  cases ht1
  have hid : d.id = (accepted s d).slaveId := hid
  rw [exec_respond_of_arrived harr]
  refine ⟨fun hfc => ⟨_, exec_encExc _, ?_⟩, fun hfc t2 ht2 => ?_⟩
  · exact State.answer_of_select_exception (State.select_of_otherFunction hid hfc)
  · obtain ⟨hrange, rfl⟩ | ⟨vs, hvs, hlen, rfl⟩ := execRtRead_next ht2
    · refine ⟨fun _ => ⟨_, exec_encExc _, ?_⟩, nofun⟩
      exact State.answer_of_select_exception (State.select_of_outOfRange hid hfc hrange)
    · let u := { accepted s d with aAddr := d.addr, aQty := d.qty }
      refine ⟨nofun, fun _ => ⟨_, exec_encRsp_of_writeVals u hlen d.id d.fc .ok, ?_⟩⟩
      obtain ⟨hrange, rfl⟩ := State.rtRead_some.1 hvs
      have hqty : d.qty.toNat ≤ valCap := (State.memRead_spec hrange).1.symm.trans_le hlen
      have hans := State.answer_of_select_data (State.select_of_inRange hid hfc hrange) hqty
      rw [← show d.fc = fcReadHolding from hfc] at hans
      exact hans

/-- Settles O34: the two runs parse alike and select the same row, whose frame and status do not depend on the rest of the state. -/
theorem respondRemembersNothing : Obligations.RespondRemembersNothing := by
  unfold Obligations.RespondRemembersNothing
  intro s s' hsame
  have halike := sameAnswer_of_sameRequestInput hsame
  refine ⟨fun t ht => ?_, fun f hf => ?_, fun r hr => ?_⟩
  · rw [ht] at halike
    exact halike.of_next
  · rw [hf] at halike
    exact halike.of_fault
  · rw [hr] at halike
    exact halike.of_refused

end Sys2Proof.Proofs
end

section
/-! The algebra of the CRC generator (40_crc.md R70, R76, R77): the bit loop on natural numbers, linearity, the zero residue of a
closed frame, the bijections, and what a changed byte does. -/

namespace Sys2Proof.Machine

open Sys2Proof.Claims

/-! ### The bit loop on natural numbers (R70) -/

theorem getLsbD_zero_eq_true_iff (c : Word) : c.getLsbD 0 = true ↔ c.toNat % 2 = 1 := by
  rw [BitVec.getLsbD, Nat.testBit_zero, decide_eq_true_eq]

theorem toNat_crcBit (c : Word) : (crcBit c).toNat = if c.toNat % 2 = 1 then (c.toNat / 2) ^^^ 0xA001 else c.toNat / 2 := by
  have hshift : (c >>> 1).toNat = c.toNat / 2 := by rw [BitVec.toNat_ushiftRight, Nat.shiftRight_one]
  unfold crcBit
  by_cases h : c.toNat % 2 = 1
  · rw [if_pos ((getLsbD_zero_eq_true_iff c).2 h), if_pos h, BitVec.toNat_xor, hshift]
    rfl
  · rw [if_neg (mt (getLsbD_zero_eq_true_iff c).1 h), if_neg h, hshift]

theorem toNat_crcBits (k : Nat) (c : Word) : (crcBits k c).toNat = natBitSteps k c.toNat := by
  induction k generalizing c with
  | zero => rfl
  | succ k ih => rw [crcBits, natBitSteps, ih, toNat_crcBit]

theorem toNat_crcByte (c : Word) (b : Byte) : (crcByte c b).toNat = natBitSteps 8 (c.toNat ^^^ b.toNat) := by
  rw [crcByte, toNat_crcBits, BitVec.toNat_xor, BitVec.toNat_setWidth_of_le (by decide)]

/-! ### Bit steps are linear, and bijective (R76 c) -/

theorem crcBit_xor (c d : Word) : crcBit (c ^^^ d) = crcBit c ^^^ crcBit d := by
  simp only [crcBit, BitVec.getLsbD_xor, BitVec.ushiftRight_xor_distrib]
  generalize c >>> 1 = x
  generalize d >>> 1 = y
  cases c.getLsbD 0 with
  | false =>
    cases d.getLsbD 0 with
    | false => rfl
    | true => exact BitVec.xor_assoc x y crcPoly
  | true =>
    cases d.getLsbD 0 with
    | false => show (x ^^^ y) ^^^ crcPoly = (x ^^^ crcPoly) ^^^ y; ac_rfl
    | true =>
      calc x ^^^ y = (x ^^^ y) ^^^ (crcPoly ^^^ crcPoly) := by rw [BitVec.xor_self, BitVec.xor_zero]
        _ = (x ^^^ crcPoly) ^^^ (y ^^^ crcPoly) := by ac_rfl

theorem crcBits_xor (k : Nat) (c d : Word) : crcBits k (c ^^^ d) = crcBits k c ^^^ crcBits k d := by
  induction k generalizing c d with
  | zero => rfl
  | succ k ih => rw [crcBits, crcBit_xor, ih, crcBits, crcBits]

theorem crcBits_bijective (k : Nat) : Function.Bijective (crcBits k) :=
  (Finite.injective_iff_bijective).1 fun _ _ => crcBits_injective k

theorem crcByte_bijective (b : Byte) : Function.Bijective fun c => crcByte c b :=
  (crcBits_bijective 8).comp ⟨fun _ _ h => (BitVec.xor_left_inj _).1 h, fun c => ⟨c ^^^ b.setWidth 16, by simp⟩⟩

/-! ### Two bytes through the register (R76 b, R76 d) -/

theorem setWidth_byte_getLsbD (b : Byte) (i : Nat) : (b.setWidth 16).getLsbD i = b.getLsbD i := by
  rw [BitVec.getLsbD_setWidth]
  by_cases hi : i < 16
  · simp [hi]
  · rw [BitVec.getLsbD_of_ge b i (by omega), Bool.and_false]

theorem xor_loByte_getLsbD_of_lt (c : Word) {i : Nat} (hi : i < 8) : (c ^^^ (loByte c).setWidth 16).getLsbD i = false := by
  rw [BitVec.getLsbD_xor, setWidth_byte_getLsbD, loByte, BitVec.getLsbD_extractLsb', Nat.zero_add]
  simp [hi]

/-- Feeding the register its own low byte shifts the high byte down. -/
theorem crcByte_loByte (c : Word) : crcByte c (loByte c) = (hiByte c).setWidth 16 := by
  rw [crcByte, crcBits_of_low_zero 8 _ fun i hi => xor_loByte_getLsbD_of_lt c hi]
  refine BitVec.eq_of_getLsbD_eq fun i _ => ?_
  rw [BitVec.getLsbD_ushiftRight, BitVec.getLsbD_xor, setWidth_byte_getLsbD, setWidth_byte_getLsbD, hiByte,
    BitVec.getLsbD_extractLsb', BitVec.getLsbD_of_ge (loByte c) (8 + i) (by omega), Bool.xor_false]
  by_cases hi : i < 8
  · simp [hi]
  · rw [BitVec.getLsbD_of_ge c (8 + i) (by omega), Bool.and_false]

theorem crcByte_setWidth (b : Byte) : crcByte (b.setWidth 16) b = 0 := by
  rw [crcByte, BitVec.xor_self, crcBits_of_low_zero 8 _ fun i _ => by simp]
  rfl

theorem crc16_withCrc (P : List Byte) : crc16 (withCrc P) = 0 := by
  rw [withCrc, crc16, crcFrom_append]
  show crcByte (crcByte (crc16 P) (loByte (crc16 P))) (hiByte (crc16 P)) = 0
  rw [crcByte_loByte, crcByte_setWidth]

/-- A byte in the upper half of the register comes down unchanged in eight bit steps. -/
theorem crcBits_byte_shiftLeft (b : Byte) : crcBits 8 (b.setWidth 16 <<< 8) = b.setWidth 16 := by
  rw [crcBits_of_low_zero 8 _ fun i hi => by simp [hi]]
  refine BitVec.eq_of_getLsbD_eq fun i hi => ?_
  rw [BitVec.getLsbD_ushiftRight, BitVec.getLsbD_shiftLeft, setWidth_byte_getLsbD, setWidth_byte_getLsbD, Nat.add_sub_cancel_left]
  by_cases h8 : i < 8
  · simp [show 8 + i < 16 by omega]
  · rw [BitVec.getLsbD_of_ge b i (by omega), Bool.and_false]

/-- Two bytes may enter the register at once, the second in its upper half. -/
theorem crcByte_crcByte (c : Word) (a b : Byte) :
    crcByte (crcByte c a) b = crcBits 16 (c ^^^ (a.setWidth 16 ^^^ b.setWidth 16 <<< 8)) := by
  show _ = crcBits (8 + 8) _
  rw [← BitVec.xor_assoc, crcBits_add, crcBits_xor 8 (c ^^^ _), crcBits_byte_shiftLeft]
  rfl

theorem loByte_xor_hiByte (v : Word) : (loByte v).setWidth 16 ^^^ (hiByte v).setWidth 16 <<< 8 = v := by
  refine BitVec.eq_of_getLsbD_eq fun i hi => ?_
  rw [BitVec.getLsbD_xor, BitVec.getLsbD_shiftLeft, setWidth_byte_getLsbD, setWidth_byte_getLsbD, loByte, hiByte,
    BitVec.getLsbD_extractLsb', BitVec.getLsbD_extractLsb']
  by_cases h8 : i < 8
  · simp [h8]
  · have hlt : i - 8 < 8 := by omega
    simp [h8, hi, hlt, show 8 + (i - 8) = i by omega]

theorem exists_crc16_eq (w : Word) : ∃ a b : Byte, crc16 [a, b] = w := by
  obtain ⟨x, rfl⟩ := (crcBits_bijective 16).surjective w
  refine ⟨loByte (crcInitValue ^^^ x), hiByte (crcInitValue ^^^ x), ?_⟩
  show crcByte (crcByte crcInitValue _) _ = _
  rw [crcByte_crcByte, loByte_xor_hiByte, ← BitVec.xor_assoc, BitVec.xor_self, BitVec.zero_xor]

/-! ### A changed byte changes the CRC (R77) -/

theorem crcByte_byte_injective {c : Word} {b b' : Byte} (h : crcByte c b = crcByte c b') : b = b' := by
  have hwide := (BitVec.xor_right_inj c).1 (crcBits_injective 8 h)
  refine BitVec.eq_of_getLsbD_eq fun i _ => ?_
  rw [← setWidth_byte_getLsbD b, hwide, setWidth_byte_getLsbD]

theorem crc16_set_ne {B : List Byte} {i : Nat} (hi : i < B.length) {b : Byte} (hb : b ≠ byteAt B i) : crc16 (B.set i b) ≠ crc16 B := by
  intro h
  rw [List.set_eq_take_append_cons_drop, if_pos hi] at h
  conv at h => rhs; rw [← List.take_append_drop i B, List.drop_eq_getElem_cons hi, ← byteAt_eq_getElem B i hi]
  rw [crc16, crc16, crcFrom_append, crcFrom_append, crcFrom_cons, crcFrom_cons] at h
  exact hb (crcByte_byte_injective (crcFrom_injective _ h))

end Sys2Proof.Machine

namespace Sys2Proof.Claims

open Sys2Proof.Machine

theorem crc16_closed (P : List Byte) : crc16 (closed P) = 0 := by rw [closed_eq_withCrc, crc16_withCrc]

theorem crcOk_closed (P : List Byte) : crcOk (closed P) ((closed P).length - 2) = true := by
  rw [closed_eq_withCrc, withCrc_length, Nat.add_sub_cancel, crcOk_withCrc]

/-! ### A flipped bit -/

theorem xor_bit_ne {k : Nat} (hk : k < 8) (b : Byte) : b ^^^ ((1 : Byte) <<< k) ≠ b := by
  intro h
  have hbit := congrArg (fun x => BitVec.getLsbD x k) h
  simp [hk] at hbit

section
variable {B : List Byte} {i k : Nat}

theorem flip_length (B : List Byte) (i k : Nat) : (flip B i k).length = B.length := List.length_set

theorem crc16_flip_ne (hi : i < B.length) (hk : k < 8) : crc16 (flip B i k) ≠ crc16 B := crc16_set_ne hi (xor_bit_ne hk _)

theorem byteAt_flip_of_ne {m : Nat} (hm : i ≠ m) : byteAt (flip B i k) m = byteAt B m := by
  rw [byteAt, byteAt, List.getD_eq_getElem?_getD, List.getD_eq_getElem?_getD, flip, List.getElem?_set_ne hm]

theorem take_flip {n : Nat} (hi : i < n) : (flip B i k).take n = flip (B.take n) i k := by
  rw [flip, flip, List.take_set, byteAt_take B n i hi]

/-- A payload bit flipped and the CRC bytes kept: the CRC test fails. -/
theorem crcOk_flip {n : Nat} (hok : crcOk B n = true) (hi : i < n) (hn : n ≤ B.length) (hk : k < 8) :
    ¬ crcOk (flip B i k) n = true := by
  intro hflip
  have hkept : le16 (flip B i k) n = le16 B n := by
    rw [le16, le16, byteAt_flip_of_ne (by omega), byteAt_flip_of_ne (by omega)]
  rw [crcOk, beq_iff_eq, hkept, take_flip hi] at hflip
  rw [crcOk, beq_iff_eq] at hok
  exact crc16_flip_ne (by rwa [List.length_take_of_le hn]) hk (hflip.symm.trans hok)

end

end Sys2Proof.Claims

namespace Sys2Proof.Proofs

open Sys2Proof.Machine Sys2Proof.Claims

/-- Settles O10: a bit step of the register is a bit step of its number, eight times. -/
theorem crcByteFollowsTheBitLoop : Obligations.CrcByteFollowsTheBitLoop := by
  unfold Obligations.CrcByteFollowsTheBitLoop
  intro s
  exact ⟨_, exec_crcByte s, rfl, toNat_crcByte s.crc s.aByte⟩

/-- Settles O12: the low byte of the CRC clears the low half of the register, and what is left of the high half is the next byte. -/
theorem closedFrameHasZeroResidue : Obligations.ClosedFrameHasZeroResidue := by
  unfold Obligations.ClosedFrameHasZeroResidue
  exact crc16_closed

/-- Settles O13: a bit step can be undone, so eight are injective, and on a finite type bijective. -/
theorem crcByteIsABijection : Obligations.CrcByteIsABijection := by
  unfold Obligations.CrcByteIsABijection
  exact crcByte_bijective

/-- Settles O14: two bytes enter the register as one word, and sixteen bit steps are a bijection. -/
theorem everyWordIsACrc : Obligations.EveryWordIsACrc := by
  unfold Obligations.EveryWordIsACrc
  exact exists_crc16_eq

/-- Settles O15: the register differs after the flipped byte, and equal bytes keep it different. -/
theorem singleBitFlipChangesTheCrc : Obligations.SingleBitFlipChangesTheCrc := by
  unfold Obligations.SingleBitFlipChangesTheCrc
  intro B i k hi hk
  exact crc16_flip_ne hi hk

/-- Settles O19: each encoder sends a payload closed by its CRC. -/
theorem encodersPassTheCrcTest : Obligations.EncodersPassTheCrcTest := by
  unfold Obligations.EncodersPassTheCrcTest
  intro i s hi
  obtain ⟨P, ⟨t, ht, htx⟩, hlen⟩ : ∃ P, Sends i s P ∧ 3 ≤ P.length := by
    obtain rfl | rfl | ⟨rfl, hN⟩ := hi
    · exact ⟨_, sends_encReq s, Nat.le_add_left 3 3⟩
    · exact ⟨_, sends_encExc s, Nat.le_refl 3⟩
    · exact ⟨_, sends_encRsp hN, by rw [dataPayload_length]; omega⟩
  refine ⟨t, closed P, ht, htx, ?_, crcOk_closed P, crc16_closed P⟩
  rw [closed_eq_withCrc, withCrc_length]
  omega

end Sys2Proof.Proofs
end

section
/-! The decoders on frames closed by their CRC (42_decode.md R97, R98): what `dec_rsp` gives back of an encoded response, and that one
flipped payload bit is found by the CRC test. -/

namespace Sys2Proof.Machine

/-! ### `dec_rsp` of a closed payload (R97) -/

theorem withCrc_take (P : List Byte) : (withCrc P).take P.length = P := List.take_left

theorem withCrc_length_sub_two (P : List Byte) : (withCrc P).length - 2 = P.length := by
  rw [withCrc_length, Nat.add_sub_cancel]

theorem crcOk_withCrc_last (P : List Byte) : crcOk (withCrc P) ((withCrc P).length - 2) = true := by
  rw [withCrc_length_sub_two, crcOk_withCrc]

theorem decRsp_withCrc_normal {fc n : Byte} {data : List Byte} (hfc : fc.msb = false) (hlen : data.length = n.toNat) (id : Byte) :
    let P := responsePayload id fc n data
    decRsp (withCrc P) = .values (wordsOfBytes (n.toNat / 2) (data ++ [loByte (crc16 P), hiByte (crc16 P)])) (crc16 P) := by
  intro P
  have hP : P.length = 3 + n.toNat := by
    rw [← hlen, Nat.add_comm]
    rfl
  have hlong : ¬ shorterThanByteCount (withCrc P).length fc n = true := by
    rw [shorterThanByteCount_iff, withCrc_length, hP]
    omega
  rw [decRsp_eq_decRspFrom3 (by rw [withCrc_length, hP]; omega) hlong, decRspFrom3_of_normal (crcOk_withCrc_last P) hfc,
    withCrc_length_sub_two, withCrc_take]
  rfl

theorem decRsp_withCrc_exception {fc : Byte} (hfc : fc.msb = true) (id code : Byte) :
    decRsp (withCrc [id, fc, code]) = .exceptionReceived code (crc16 [id, fc, code]) := by
  have hlong : ¬ shorterThanByteCount (withCrc [id, fc, code]).length fc code = true := by
    rw [shorterThanByteCount_iff, hfc]
    exact fun h => nomatch h.1
  exact (decRsp_eq_decRspFrom3 (B := withCrc [id, fc, code]) (Nat.le_refl 5) hlong).trans
    (decRspFrom3_of_exception (B := withCrc [id, fc, code]) (crcOk_withCrc_last [id, fc, code]) hfc)

/-- A response that decodes is long enough and passes the CRC test. -/
theorem crcOk_of_decRsp_ne_malformed {B : List Byte} (h : ∀ c, decRsp B ≠ .malformed c) :
    5 ≤ B.length ∧ crcOk B (B.length - 2) = true := by
  by_cases h5 : 5 ≤ B.length
  · refine ⟨h5, Bool.not_eq_false _ ▸ fun hcrc => ?_⟩
    obtain hshort | hfrom3 := decRsp_cases B
    · exact h none hshort
    · exact h _ (hfrom3.trans (decRspFrom3_of_crc_wrong (Bool.eq_false_iff.1 hcrc)))
  · exact absurd (decRsp_of_length_lt (Nat.not_le.1 h5)) (h none)

theorem decRsp_of_crc_wrong {B : List Byte} (hcrc : ¬ crcOk B (B.length - 2) = true) : ∃ c, decRsp B = .malformed c := by
  obtain hshort | hfrom3 := decRsp_cases B
  · exact ⟨none, hshort⟩
  · exact ⟨_, hfrom3.trans (decRspFrom3_of_crc_wrong hcrc)⟩

end Sys2Proof.Machine

namespace Sys2Proof.Claims

open Sys2Proof.Machine

/-- `dec_rsp` of a data frame gives its values back: the byte count says how many there are, and they are read as they were laid out. -/
theorem decRsp_closed_dataPayload {fc : Byte} {vs : List Word} (hfc : fc.msb = false) (hvs : vs.length ≤ 127) (id : Byte) :
    decRsp (closed (dataPayload id fc vs)) = .values vs (crc16 (dataPayload id fc vs)) := by
  have hcount : (BitVec.ofNat 8 (2 * vs.length)).toNat = 2 * vs.length := by
    rw [BitVec.toNat_ofNat, Nat.mod_eq_of_lt (by omega)]
  have hlen : (bytesOfWords vs).length = (BitVec.ofNat 8 (2 * vs.length)).toNat := by rw [bytesOfWords_length, hcount]
  rw [closed_eq_withCrc, dataPayload_eq_responsePayload, decRsp_withCrc_normal hfc hlen, hcount, Nat.mul_div_cancel_left _ (by decide),
    wordsOfBytes_bytesOfWords]

theorem decRsp_closed_exception {fc : Byte} (hfc : fc.msb = true) (id code : Byte) :
    decRsp (closed [id, fc, code]) = .exceptionReceived code (crc16 [id, fc, code]) := by
  rw [closed_eq_withCrc, decRsp_withCrc_exception hfc]

end Sys2Proof.Claims

namespace Sys2Proof.Proofs

open Sys2Proof.Machine Sys2Proof.Claims

/-- Settles O23: both frames are closed by their CRC; bit 7 of byte 1 tells them apart. -/
theorem decRspInvertsTheEncoders : Obligations.DecRspInvertsTheEncoders := by
  unfold Obligations.DecRspInvertsTheEncoders
  exact ⟨fun id fc vs hfc hvs => decRsp_closed_dataPayload hfc hvs id,
    fun id fc code => decRsp_closed_exception (or_excFlag_msb fc) id code⟩

/-- Settles O24: whatever the flipped bit does to the length test, the CRC test fails. -/
theorem corruptedResponseIsMalformed : Obligations.CorruptedResponseIsMalformed := by
  unfold Obligations.CorruptedResponseIsMalformed
  intro F i k hdec hi hk
  obtain ⟨-, hcrc⟩ := crcOk_of_decRsp_ne_malformed hdec
  refine decRsp_of_crc_wrong ?_
  rw [flip_length]
  exact crcOk_flip hcrc hi (Nat.sub_le _ _) hk

/-- Settles O25: with the check on the flipped payload fails the CRC test of both operations; with it off the six bytes are read as
they are. -/
theorem corruptedRequestIsDropped : Obligations.CorruptedRequestIsDropped := by
  unfold Obligations.CorruptedRequestIsDropped
  intro s B i k h8 hcrc hi hk hB
  have h8' : 8 ≤ (flip B i k).length := (flip_length B i k).symm ▸ h8
  have hlen : 8 ≤ s.rxLen := hB.1 ▸ h8'
  have hwrong : ¬ crcOk (flip B i k) 6 = true := crcOk_flip hcrc hi (by omega) hk
  refine ⟨fun hon => ⟨?_, ?_⟩, fun hoff => ⟨_, exec_decReq_unchecked hlen hoff (rxBytes_of_rxHolds hB (by omega)), rfl⟩⟩
  · have hdrop := exec_decReq_crc_wrong hlen hon (rxBytes_of_rxHolds hB h8') (by rwa [crcOk_take (by decide)])
    rwa [List.take_take] at hdrop
  · obtain ⟨-, hsilent, -⟩ := respondIsSilentWhenNotMeant
    exact hsilent s _ h8' hB hon (mt (crcOk_iff_lo_hi _ 6).2 hwrong)

end Sys2Proof.Proofs
end

section
/-! The received frames (30_encoding.md R51 to R53, R56; log 7): storing a frame, the request that has then arrived, and the response
that is then decoded. -/

namespace Sys2Proof.Claims

open Sys2Proof.Machine

/-! ### A frame instruction is its encoding, received -/

theorem exec_of_encode_frame {i : Instr} {dir : Direction} {B : List Byte} (hi : encode i = .frame dir B) (s : State) :
    exec i s = s.receiveFrame dir B := by
  cases i with
  | frameReqReadHolding id addr qty l h => cases hi; exact exec_frameReqReadHolding id addr qty l h s
  | frameReqOtherFunction id fc addr qty l h => cases hi; exact exec_frameReqOtherFunction id fc addr qty l h s
  | frameRspNormal id low n data l h => cases hi; exact exec_frameRspNormal id low n data l h s
  | frameRspException id low code l h => cases hi; exact exec_frameRspException id low code l h s
  | _ => cases hi

/-- The operation of the role a frame is meant for (R56). -/
def roleOf : Direction → Instr
  | .request => .respond
  | .response => .decRsp

theorem receiveFrame_of_fits {dir : Direction} {B : List Byte} (hfit : B.length ≤ Config.bufCap) (s : State) :
    s.receiveFrame dir B = exec (roleOf dir) (s.storeRx B) := by
  unfold State.receiveFrame
  rw [if_neg (Nat.not_lt.2 hfit)]
  cases dir with
  | request => rfl
  | response => rfl

theorem receiveFrame_of_overrun {dir : Direction} {B : List Byte} (hover : Config.bufCap < B.length) (s : State) :
    s.receiveFrame dir B = .refused (.bufferOverrun B.length) := by
  unfold State.receiveFrame
  rw [if_pos hover]

/-! ### A stored request frame has arrived -/

/-- The eight bytes of a request frame (R51). -/
def requestFrame (d : Request) (l h : Byte) : List Byte := requestPayload d.id d.fc d.addr d.qty ++ [l, h]

/-- The CRC bytes are right, where the check is on (R90, R91). -/
def CrcBytesRight (s : State) (d : Request) (l h : Byte) : Prop :=
  s.reqCrcCheck = true → l = lo (crc16 (six d.id d.fc d.addr d.qty)) ∧ h = hi (crc16 (six d.id d.fc d.addr d.qty))

theorem requestFrame_fits (d : Request) (l h : Byte) : (requestFrame d l h).length ≤ Config.bufCap :=
  Nat.le_trans (by decide : 8 ≤ 259) bufCap_ge

theorem receiveFrame_requestFrame (s : State) (d : Request) (l h : Byte) :
    s.receiveFrame .request (requestFrame d l h) = exec .respond (s.storeRx (requestFrame d l h)) :=
  receiveFrame_of_fits (requestFrame_fits d l h) s

theorem read_storeRx (s : State) {B : List Byte} {i : Nat} (hi : i < B.length) : Memory.read (s.storeRx B).rxBuf i = B[i]? :=
  (rxHolds_of_stored (s := s) (t := s.storeRx B) rfl rfl).2 i hi

/-- The request that has arrived with a stored frame is the one in the frame. -/
theorem arrived_storeRx_requestFrame_iff {s : State} {d d' : Request} {l h : Byte} :
    Arrived (s.storeRx (requestFrame d l h)) d' ↔ d' = d ∧ CrcBytesRight s d l h := by
  have hread {i : Nat} (hi : i < 8) : Memory.read (s.storeRx (requestFrame d l h)).rxBuf i = (requestFrame d l h)[i]? :=
    read_storeRx s hi
  constructor
  · intro harr
    have hsix : State.rxBytes (s.storeRx (requestFrame d l h)) 6 = .ok (requestPayload d.id d.fc d.addr d.qty) :=
      State.rxBytes_storeRx s (requestFrame d l h) 6 (Nat.le_add_right 6 2)
    have hpayload := Except.ok.inj (harr.rxBytes_six.symm.trans hsix)
    have hd : d' = d := by rw [← requestOf_requestPayload d', hpayload, requestOf_requestPayload]
    subst hd
    refine ⟨rfl, fun hon => ?_⟩
    obtain ⟨hlo, hhi⟩ := harr.2.2 hon
    exact ⟨Option.some.inj ((hread (by decide)).symm.trans hlo), Option.some.inj ((hread (by decide)).symm.trans hhi)⟩
  · rintro ⟨rfl, hcrc⟩
    refine ⟨Nat.le_refl 8, fun i hi => ?_, fun hon => ?_⟩
    · rw [hread (by omega), six_eq_requestPayload]
      exact List.getElem?_append_left hi
    · obtain ⟨rfl, rfl⟩ := hcrc hon
      exact ⟨hread (by decide), hread (by decide)⟩

/-- What the receive buffer holds after a request frame was stored, if nothing has touched it since. -/
theorem rx_of_stored_requestFrame {s t : State} {d : Request} {l h : Byte}
    (hbuf : t.rxBuf = (s.storeRx (requestFrame d l h)).rxBuf) (hlen : t.rxLen = (s.storeRx (requestFrame d l h)).rxLen) :
    RxHolds t (six d.id d.fc d.addr d.qty ++ [l, h]) ∧ RxKeptFrom 8 s t := by
  rw [six_eq_requestPayload]
  exact ⟨rxHolds_of_stored hbuf hlen, fun a ha => read_rxBuf_of_stored (rx := requestFrame d l h) hbuf ha⟩

/-! ### A stored response frame is decoded -/

/-- The values of a normal response as the statements write them: pairs of data bytes, high byte first (R93). -/
theorem wordsOfBytes_append_eq_map_num {data : List Byte} {q : Nat} (hq : 2 * q ≤ data.length) (C : List Byte) :
    wordsOfBytes q (data ++ C) = (List.range q).map fun i => num (byteAt data (2 * i)) (byteAt data (2 * i + 1)) := by
  refine List.ext_getElem (by simp) fun i hi _ => ?_
  rw [wordsOfBytes_length] at hi
  rw [wordsOfBytes_get, List.getElem_map, List.getElem_range, num_eq_word, be16, byteAt_append_left data C _ (by omega),
    byteAt_append_left data C _ (by omega)]

/-- The whole state a stored normal response leaves. -/
theorem applyResponse_values_storeRx (s : State) (B : List Byte) (vs : List Word) (c : Word) :
    let t := (s.storeRx B).applyResponse (.values vs c)
    t = { s with rxBuf := t.rxBuf, rxLen := B.length, val := t.val, valN := vs.length,
                 written := { s.written with val := t.written.val }, crc := c, status := .ok } := rfl

theorem rxKeptFrom_storeRx (s : State) (B : List Byte) : RxKeptFrom B.length s (s.storeRx B) :=
  fun _ ha => read_rxBuf_of_stored rfl ha

end Sys2Proof.Claims

namespace Sys2Proof.Proofs

open Sys2Proof.Machine Sys2Proof.Claims

/-- Settles O39: a frame instruction is its encoding, received; `storeRx` is the store, and the direction picks the operation. -/
theorem receivedFramesRunTheirRole : Obligations.ReceivedFramesRunTheirRole := by
  unfold Obligations.ReceivedFramesRunTheirRole
  intro i dir B s hi
  rw [exec_of_encode_frame hi]
  refine ⟨fun hfit => ⟨s.storeRx B, rxHolds_of_stored rfl rfl, rxKeptFrom_storeRx s B, rfl, ?_⟩,
    fun hover => receiveFrame_of_overrun hover s⟩
  rw [receiveFrame_of_fits hfit]
  cases dir with
  | request => rfl
  | response => rfl

/-- Settles O40: the stored request has arrived, and `RESPOND` serves it. -/
theorem receivedReadRequestIsServed : Obligations.ReceivedReadRequestIsServed := by
  unfold Obligations.ReceivedReadRequestIsServed
  intro s addr qty l h hcrc hrange hqty
  let d : Request := ⟨s.slaveId, fcReadHolding, addr, qty⟩
  let u := s.storeRx (requestFrame d l h)
  have harr : Arrived u d := arrived_storeRx_requestFrame_iff.2 ⟨rfl, hcrc⟩
  obtain ⟨t, ht, htx, hkept, hvals, hframe⟩ := respondServesTheRegisters u d harr rfl rfl hrange hqty
  have hrxBuf : t.rxBuf = u.rxBuf := (congrArg State.rxBuf hframe :)
  obtain ⟨hholds, hrest⟩ := rx_of_stored_requestFrame hrxBuf (congrArg State.rxLen hframe :)
  refine ⟨t, (receiveFrame_requestFrame s d l h).trans ht, hholds, hrest, htx, hkept, hvals, ?_⟩
  rw [hrxBuf]
  exact hframe

/-- Settles O41: the stored request has arrived, and `RESPOND` answers it with exception 1. -/
theorem receivedOtherFunctionIsAnswered : Obligations.ReceivedOtherFunctionIsAnswered := by
  unfold Obligations.ReceivedOtherFunctionIsAnswered
  intro s fc addr qty l h hfc hcrc
  let d : Request := ⟨s.slaveId, fc, addr, qty⟩
  let u := s.storeRx (requestFrame d l h)
  have harr : Arrived u d := arrived_storeRx_requestFrame_iff.2 ⟨rfl, hcrc⟩
  obtain ⟨t, ht, htx, hkept, hframe⟩ := respondAnswersIllegalFunction u d harr rfl hfc
  have hrxBuf : t.rxBuf = u.rxBuf := (congrArg State.rxBuf hframe :)
  obtain ⟨hholds, hrest⟩ := rx_of_stored_requestFrame hrxBuf (congrArg State.rxLen hframe :)
  refine ⟨t, (receiveFrame_requestFrame s d l h).trans ht, hholds, hrest, htx, hkept, ?_⟩
  rw [hrxBuf]
  exact hframe

/-- Settles O42: the stored frame is a closed payload, which decodes to the values of its data bytes. -/
theorem receivedNormalResponseGivesItsValues : Obligations.ReceivedNormalResponseGivesItsValues := by
  unfold Obligations.ReceivedNormalResponseGivesItsValues
  intro s id low n data hlen hfit P
  have hwhole : (closed P).length = 5 + n.toNat := by
    rw [closed_eq_withCrc, withCrc_length, ← hlen, Nat.add_comm 5]
    rfl
  have hdec : decRsp (closed P) =
      .values ((List.range (n.toNat / 2)).map fun i => num (byteAt data (2 * i)) (byteAt data (2 * i + 1))) (crc16 P) := by
    rw [← wordsOfBytes_append_eq_map_num (by omega) [loByte (crc16 P), hiByte (crc16 P)], closed_eq_withCrc]
    exact decRsp_withCrc_normal (normalFunctionByte_msb low) hlen id
  have hexec : exec (.frameRspNormal id low n data (lo (crc16 P)) (hi (crc16 P))) s =
      .next ((s.storeRx (closed P)).applyResponse (decRsp (closed P))) :=
    (exec_of_encode_frame (B := closed P) rfl s).trans (State.receiveFrame_response s (hwhole.trans_le hfit))
  rw [hdec] at hexec
  refine ⟨_, hexec, rxHolds_of_stored (s := s) rfl rfl, ?_, valuesWritten_of_setFrom rfl rfl, ?_⟩
  · rw [← hwhole]
    exact rxKeptFrom_storeRx s (closed P)
  · have hframe := applyResponse_values_storeRx s (closed P)
      ((List.range (n.toNat / 2)).map fun i => num (byteAt data (2 * i)) (byteAt data (2 * i + 1))) (crc16 P)
    rw [hwhole, List.length_map, List.length_range] at hframe
    exact hframe

/-- Settles O43: the stored frame is a closed payload with bit 7 of byte 1 set, which decodes to its code. -/
theorem receivedExceptionGivesItsCode : Obligations.ReceivedExceptionGivesItsCode := by
  unfold Obligations.ReceivedExceptionGivesItsCode
  intro s id low code P
  have hexec : exec (.frameRspException id low code (lo (crc16 P)) (hi (crc16 P))) s =
      .next ((s.storeRx (closed P)).applyResponse (decRsp (closed P))) :=
    (exec_of_encode_frame (B := closed P) rfl s).trans
      (State.receiveFrame_response s (Nat.le_trans (by decide : 5 ≤ 259) bufCap_ge))
  have hdec : decRsp (closed P) = .exceptionReceived code (crc16 P) := decRsp_closed_exception (exceptionFunctionByte_msb low) id code
  rw [hdec] at hexec
  exact ⟨_, hexec, rxHolds_of_stored (s := s) rfl rfl, rxKeptFrom_storeRx s (closed P), rfl⟩

end Sys2Proof.Proofs
end

section
/-! How every instruction ends (60_exceptions.md R122; 10_state.md R23; 93_implementation_defined.md U8, U10, U13): the outcomes it can
write to `STATUS`, the faults it can raise, and exactly when it is refused. -/

namespace Sys2Proof.Claims

open Sys2Proof.Machine

section
variable {s t : State}

/-! ### The outcomes (R14, R122) -/

theorem applyResponse_status (s : State) (r : Response) : (s.applyResponse r).status ∈ [Status.ok, .exception, .malformed] := by
  cases r with
  | malformed c => simp [State.applyResponse]
  | exceptionReceived e c => simp [State.applyResponse]
  | values vs c => simp [State.applyResponse]

theorem serveRequest_status (h : s.serveRequest = .next t) :
    t.status ∈ [Status.ok, .exception, .malformed, .notAddressed] := by
  obtain ⟨c, -, rfl⟩ | ⟨d, c, -, hanswer⟩ := State.serveRequest_next h
  · simp
  · obtain ⟨-, rfl⟩ | ⟨code, -, -, rfl⟩ | ⟨vs, -, -, -, rfl⟩ := State.answer_next hanswer
    · simp
    · simp
    · simp

theorem execDecRsp_status (h : execDecRsp s = .next t) : t.status ∈ [Status.ok, .exception, .malformed] := by
  obtain ⟨r, -, rfl⟩ := execDecRsp_next h
  exact applyResponse_status s r

theorem classify_status (s : State) (rx : List Byte) :
    (s.classify rx).status ∈ [Status.ok, .exception, .malformed, .timeout] := by
  by_cases hrx : rx = []
  · rw [hrx, State.classify_nil]
    simp
  · rw [State.classify_of_ne_nil s hrx]
    exact List.mem_append_left [.timeout] (applyResponse_status s (decRsp rx))

theorem receiveFrame_request_status {B : List Byte} (h : s.receiveFrame .request B = .next t) :
    t.status ∈ [Status.ok, .exception, .malformed, .notAddressed] := by
  obtain ⟨-, ⟨-, hserve⟩ | ⟨hdir, -⟩⟩ := State.receiveFrame_next h
  · exact serveRequest_status hserve
  · cases hdir

theorem receiveFrame_response_status {B : List Byte} (h : s.receiveFrame .response B = .next t) :
    t.status ∈ [Status.ok, .exception, .malformed] := by
  obtain ⟨-, ⟨hdir, -⟩ | ⟨-, hdec⟩⟩ := State.receiveFrame_next h
  · cases hdir
  · exact execDecRsp_status hdec

/-! ### The faults (R23, log 20) -/

/-- The fault names a byte of the received buffer that nothing has written. -/
def UnwrittenByte (s : State) (f : Fault) : Prop := ∃ k, f = .unwrittenByte k ∧ k < s.rxLen ∧ Memory.read s.rxBuf k = none

variable {f : Fault}

theorem execCrc16_fault (h : execCrc16 s = .fault f) : UnwrittenByte s f := by
  unfold execCrc16 at h
  split at h
  · rename_i k hk
    cases h
    exact ⟨k, rfl, State.rxBytes_error hk⟩
  · cases h

theorem execDecReq_fault (h : execDecReq s = .fault f) : UnwrittenByte s f := by
  unfold execDecReq at h
  split at h
  · rename_i k hk
    cases h
    exact ⟨k, rfl, State.parseRequest_error hk⟩
  · cases h
  · cases h

theorem execDecRsp_fault (h : execDecRsp s = .fault f) : UnwrittenByte s f := by
  unfold execDecRsp at h
  split at h
  · rename_i k hk
    cases h
    exact ⟨k, rfl, State.parseResponse_error hk⟩
  · cases h

theorem answer_ne_fault (s : State) (d : Request) : s.answer d ≠ .fault f := by
  unfold State.answer
  split
  · nofun
  · nofun
  · split
    · nofun
    · nofun

theorem serveRequest_fault (h : s.serveRequest = .fault f) : UnwrittenByte s f := by
  unfold State.serveRequest at h
  split at h
  · rename_i k hk
    cases h
    exact ⟨k, rfl, State.parseRequest_error hk⟩
  · cases h
  · exact absurd h (answer_ne_fault _ _)

/-- Every byte of a stored frame has been written. -/
theorem not_unwrittenByte_storeRx (s : State) (B : List Byte) : ¬ UnwrittenByte (s.storeRx B) f := by
  rintro ⟨k, -, hk, hnone⟩
  rw [read_storeRx s hk, List.getElem?_eq_getElem hk] at hnone
  cases hnone

theorem receiveFrame_ne_fault (s : State) (dir : Direction) (B : List Byte) : s.receiveFrame dir B ≠ .fault f := by
  intro h
  unfold State.receiveFrame at h
  split at h
  · cases h
  · cases dir with
    | request => exact not_unwrittenByte_storeRx s B (serveRequest_fault h)
    | response => exact not_unwrittenByte_storeRx s B (execDecRsp_fault h)

theorem execRtRead_ne_fault (s : State) : execRtRead s ≠ .fault f := by
  unfold execRtRead
  split
  · nofun
  · split
    · nofun
    · nofun

theorem execEncRsp_ne_fault (s : State) : execEncRsp s ≠ .fault f := by
  unfold execEncRsp
  split
  · nofun
  · nofun

theorem execQuery_ne_fault (s : State) : execQuery s ≠ .fault f := by
  unfold execQuery
  split
  · nofun
  · nofun

/-! ### The refusals (U8, U10, U13) -/

variable {r : Refusal}

theorem execCrc16_ne_refused (s : State) : execCrc16 s ≠ .refused r := by
  unfold execCrc16
  split
  · nofun
  · nofun

theorem execDecReq_ne_refused (s : State) : execDecReq s ≠ .refused r := by
  unfold execDecReq
  split
  · nofun
  · nofun
  · nofun

theorem execDecRsp_ne_refused (s : State) : execDecRsp s ≠ .refused r := by
  unfold execDecRsp
  split
  · nofun
  · nofun

theorem exec_encRsp_refused_iff : exec .encRsp s = .refused r ↔ valCap < s.valN ∧ r = .quantityAboveCapacity s.valN := by
  by_cases hN : valCap < s.valN
  · rw [exec_encRsp_of_valN_gt hN]
    exact ⟨by rintro ⟨⟩; exact ⟨hN, rfl⟩, by rintro ⟨-, rfl⟩; rfl⟩
  · rw [exec_encRsp_of_valN_le (Nat.not_lt.1 hN)]
    exact ⟨nofun, fun ⟨hover, _⟩ => absurd hover hN⟩

theorem exec_rtRead_refused_iff : exec .rtRead s = .refused r ↔ ReadRefused s s.aAddr s.aQty r := by
  rcases Nat.lt_or_ge s.tableLen (s.aAddr.toNat + s.aQty.toNat) with hrange | hrange
  · rw [exec_rtRead_outOfRange hrange]
    exact ⟨nofun, fun ⟨hin, _⟩ => absurd hin (Nat.not_le.2 hrange)⟩
  · by_cases hqty : s.aQty.toNat ≤ valCap
    · rw [exec_rtRead_inRange hrange hqty]
      exact ⟨nofun, fun ⟨_, hcap, _⟩ => absurd hcap (Nat.not_lt.2 hqty)⟩
    · rw [exec_rtRead_aboveCapacity hrange (Nat.not_le.1 hqty)]
      exact ⟨by rintro ⟨⟩; exact ⟨hrange, Nat.not_le.1 hqty, rfl⟩, by rintro ⟨-, -, rfl⟩; rfl⟩

theorem exec_query_refused_iff :
    exec .query s = .refused r ↔
      Config.bufCap < s.transport.nextAnswer.length ∧ r = .bufferOverrun s.transport.nextAnswer.length := by
  show execQuery s = _ ↔ _
  rw [execQuery_eq]
  by_cases hover : Config.bufCap < s.transport.nextAnswer.length
  · rw [if_pos hover]
    exact ⟨by rintro ⟨⟩; exact ⟨hover, rfl⟩, by rintro ⟨-, rfl⟩; rfl⟩
  · rw [if_neg hover]
    exact ⟨nofun, fun ⟨hlong, _⟩ => absurd hlong hover⟩

theorem exec_respond_refused_iff :
    exec .respond s = .refused r ↔
      ∃ d : Request, Arrived s d ∧ d.id = s.slaveId ∧ d.fc = fcReadHolding ∧ ReadRefused s d.addr d.qty r := by
  constructor
  · intro h
    cases hp : s.parseRequest with
    | error k =>
      rw [exec_respond_of_parse_error hp] at h
      cases h
    | ok p =>
      cases p with
      | malformed c =>
        rw [exec_respond_of_malformed hp] at h
        cases h
      | parsed d c =>
        have harr := arrived_of_parsed hp
        rw [exec_respond_of_arrived harr] at h
        exact ⟨d, harr, (answer_refused_iff (s := accepted s d)).1 h⟩
  · rintro ⟨d, harr, hread⟩
    rw [exec_respond_of_arrived harr]
    exact answer_refused_iff.2 hread

/-- A request frame is refused where `RESPOND` refuses the request it holds. -/
theorem receiveFrame_requestFrame_refused_iff {d : Request} {l h : Byte} :
    s.receiveFrame .request (requestFrame d l h) = .refused r ↔
      FrameServed s d.id d.fc d.addr d.qty l h ∧ ReadRefused s d.addr d.qty r := by
  rw [receiveFrame_requestFrame, exec_respond_refused_iff]
  constructor
  · rintro ⟨d', harr, hid, hfc, hread⟩
    obtain ⟨rfl, hcrc⟩ := arrived_storeRx_requestFrame_iff.1 harr
    exact ⟨⟨hid, hfc, hcrc⟩, hread⟩
  · rintro ⟨⟨hid, hfc, hcrc⟩, hread⟩
    exact ⟨d, arrived_storeRx_requestFrame_iff.2 ⟨rfl, hcrc⟩, hid, hfc, hread⟩

/-- A response frame is refused where it does not fit. -/
theorem receiveFrame_response_refused_iff {B : List Byte} :
    s.receiveFrame .response B = .refused r ↔ Config.bufCap < B.length ∧ r = .bufferOverrun B.length := by
  by_cases hover : Config.bufCap < B.length
  · rw [receiveFrame_of_overrun hover]
    exact ⟨by rintro ⟨⟩; exact ⟨hover, rfl⟩, by rintro ⟨-, rfl⟩; rfl⟩
  · rw [State.receiveFrame_response s (Nat.not_lt.1 hover)]
    exact ⟨nofun, fun ⟨hlong, _⟩ => absurd hlong hover⟩

theorem refused_iff_eq {r' : Refusal} : (.refused r' : Host.Outcome State Fault Refusal) = .refused r ↔ r = r' :=
  ⟨by rintro ⟨⟩; rfl, by rintro rfl; rfl⟩

end

theorem bytesRspNormal_length (id : Byte) (low : BitVec 7) (n : Byte) (data : List Byte) (l h : Byte) :
    (bytesRspNormal id low n data l h).length = 5 + data.length := by
  simp only [bytesRspNormal, responsePayload, List.length_append, List.length_cons, List.length_nil]
  omega

end Sys2Proof.Claims

namespace Sys2Proof.Proofs

open Sys2Proof.Machine Sys2Proof.Claims

/-- Settles O52: what each meaning can answer, and the outcome it raises there. -/
theorem operationsEndInTheirOutcomes : Obligations.OperationsEndInTheirOutcomes := by
  unfold Obligations.OperationsEndInTheirOutcomes
  intro i s t h
  cases i with
  | crcInit | crcByte | encReq | encExc => cases h; simp [outcomesOf]
  | crc16 => obtain ⟨B, -, rfl⟩ := execCrc16_next h; simp [outcomesOf]
  | encRsp => obtain ⟨-, rfl⟩ := execEncRsp_next h; simp [outcomesOf]
  | decReq =>
    obtain ⟨c, -, rfl⟩ | ⟨d, c, -, rfl⟩ := execDecReq_next h
    · simp [outcomesOf]
    · simp [outcomesOf]
  | decRsp => exact execDecRsp_status h
  | rtRead =>
    obtain ⟨-, rfl⟩ | ⟨vs, -, -, rfl⟩ := execRtRead_next h
    · simp [outcomesOf]
    · simp [outcomesOf]
  | respond => exact serveRequest_status h
  | query =>
    obtain ⟨-, rfl⟩ := execQuery_next h
    exact classify_status _ _
  | reservedOp0 | reservedOpC | reservedOpD | reservedOpE | reservedOpF => cases h
  | frameReqReadHolding | frameReqOtherFunction => exact receiveFrame_request_status ((exec_of_encode_frame rfl s).symm.trans h)
  | frameRspNormal | frameRspException => exact receiveFrame_response_status ((exec_of_encode_frame rfl s).symm.trans h)

/-- Settles O53: only a read of the receive buffer faults; a received frame has just been written whole. -/
theorem operationsFaultOnlyOnUnwrittenBytes : Obligations.OperationsFaultOnlyOnUnwrittenBytes := by
  unfold Obligations.OperationsFaultOnlyOnUnwrittenBytes
  intro i s f h
  cases i with
  | crcInit | crcByte | encReq | encExc => cases h
  | crc16 => exact ⟨execCrc16_fault h, .inl rfl⟩
  | encRsp => exact absurd h (execEncRsp_ne_fault s)
  | decReq => exact ⟨execDecReq_fault h, .inr (.inl rfl)⟩
  | decRsp => exact ⟨execDecRsp_fault h, .inr (.inr (.inl rfl))⟩
  | rtRead => exact absurd h (execRtRead_ne_fault s)
  | respond => exact ⟨serveRequest_fault h, .inr (.inr (.inr rfl))⟩
  | query => exact absurd h (execQuery_ne_fault s)
  | reservedOp0 | reservedOpC | reservedOpD | reservedOpE | reservedOpF => cases h
  | frameReqReadHolding | frameReqOtherFunction | frameRspNormal | frameRspException =>
    exact absurd ((exec_of_encode_frame rfl s).symm.trans h) (receiveFrame_ne_fault s _ _)

/-- Settles O54: each instruction's refusal, with its condition, and none for the instructions that always run or fault. -/
theorem operationsAreRefusedOnlyWhereTheSpecRefuses : Obligations.OperationsAreRefusedOnlyWhereTheSpecRefuses := by
  unfold Obligations.OperationsAreRefusedOnlyWhereTheSpecRefuses
  intro i s r
  cases i with
  | crcInit | crcByte | encReq | encExc => exact ⟨nofun, nofun⟩
  | crc16 => exact ⟨execCrc16_ne_refused s, nofun⟩
  | encRsp => exact exec_encRsp_refused_iff
  | decReq => exact ⟨execDecReq_ne_refused s, nofun⟩
  | decRsp => exact ⟨execDecRsp_ne_refused s, nofun⟩
  | rtRead => exact exec_rtRead_refused_iff
  | respond => exact exec_respond_refused_iff
  | query => exact exec_query_refused_iff
  | reservedOp0 | reservedOpC | reservedOpD | reservedOpE | reservedOpF => exact refused_iff_eq
  | frameReqReadHolding id addr qty l h =>
    rw [exec_frameReqReadHolding]
    exact receiveFrame_requestFrame_refused_iff (d := ⟨id, fcReadHolding, addr, qty⟩)
  | frameReqOtherFunction id fc addr qty l h =>
    rw [exec_frameReqOtherFunction]
    exact receiveFrame_requestFrame_refused_iff (d := ⟨id, fc, addr, qty⟩)
  | frameRspNormal id low n data l h =>
    rw [exec_frameRspNormal, receiveFrame_response_refused_iff, bytesRspNormal_length]
    rfl
  | frameRspException id low code l h =>
    rw [exec_frameRspException, receiveFrame_response_refused_iff]
    exact ⟨fun ⟨hover, _⟩ => absurd hover (Nat.not_lt.2 (Nat.le_trans (by decide : 5 ≤ 259) bufCap_ge)), nofun⟩

end Sys2Proof.Proofs
end

section
/-! The master and its transport (44_master.md R110 to R113; 95_test_vectors.md L1-b, L1-c): `QUERY` on the free answer, `QUERY` as the
host's own sequence of steps, and the exchange of the two roles. -/

namespace Sys2Proof.Machine

/-! ### A transport with no placed answer (R111, log 4) -/

section
variable {t : Transport} (hnone : t.answers = [])
include hnone

theorem Transport.nextAnswer_fits_of_none : t.nextAnswer.length ≤ Config.bufCap := by
  simp only [Transport.nextAnswer, hnone]
  exact List.length_take_le _ _

theorem Transport.exchange_of_none (F : List Byte) :
    t.exchange F = { answers := [], taken := t.taken + 1, trace := t.trace ++ [.send F, .receive t.nextAnswer] } := by
  simp only [Transport.exchange, hnone]

end

/-! ### A response applied to two states alike -/

/-- What a response writes does not depend on `STATUS`, the host steps or the transport, and leaves the latter two alone. -/
theorem State.applyResponse_host_transport (s : State) (x : Status) (steps : List HostStep) (t : Transport) (r : Response) :
    State.applyResponse { s with status := x, host := steps, transport := t } r =
      { s.applyResponse r with host := steps, transport := t } := by
  cases r with
  | malformed c => cases c <;> rfl
  | exceptionReceived e c => rfl
  | values vs c => rfl

end Sys2Proof.Machine

namespace Sys2Proof.Claims

open Sys2Proof.Machine

/-! ### `QUERY` on whatever the transport returns -/

theorem exec_query_of_fits {s : State} (hfit : s.transport.nextAnswer.length ≤ Config.bufCap) :
    exec .query s = .next (queried s s.transport.nextAnswer) := by
  show execQuery s = _
  rw [execQuery_eq, if_neg (Nat.not_lt.2 hfit), queried]

theorem queried_rxHolds (s : State) : RxHolds (queried s s.transport.nextAnswer) s.transport.nextAnswer :=
  rxHolds_of_stored (s := s) (State.classify_rxBuf _ _) (State.classify_rxLen _ _)

theorem queried_status_eq_timeout_iff (s : State) (rx : List Byte) : (queried s rx).status = .timeout ↔ rx = [] := by
  constructor
  · intro htimeout
    by_contra hne
    have hmem := applyResponse_status s.sendRequest.exchangeFrame (decRsp rx)
    rw [queried, State.classify_of_ne_nil _ hne] at htimeout
    rw [htimeout] at hmem
    exact absurd hmem (by decide)
  · rintro rfl
    rfl

/-! ### The host drives the transport itself (R113) -/

/-- The host's writes of a sequence into `RXBUF` from index `i`. -/
def rxWrites : Nat → List Byte → List HostStep
  | _, [] => []
  | i, b :: F => .write (.rxByte i b) :: rxWrites (i + 1) F

theorem map_range_eq_rxWrites (i : Nat) (F : List Byte) :
    ((List.range F.length).map fun k => HostStep.write (.rxByte (i + k) (byteAt F k))) = rxWrites i F := by
  induction F generalizing i with
  | nil => rfl
  | cons b F ih =>
    rw [List.length_cons, List.range_succ_eq_map, List.map_cons, List.map_map, rxWrites, ← ih (i + 1)]
    simp only [Function.comp_def, byteAt_cons_zero, byteAt_cons_succ, Nat.add_zero, Nat.succ_eq_add_one, Nat.add_right_comm,
      Nat.add_assoc]

theorem queryByParts_eq (rx : List Byte) :
    queryByParts rx = .command (.op 0x4) :: (rxWrites 0 rx ++ [.write (.rxLen rx.length), .command (.op 0x8)]) := by
  rw [← map_range_eq_rxWrites]
  simp only [queryByParts, Nat.zero_add, List.cons_append]

theorem core_run_rxWrites {i : Nat} {F : List Byte} {rest : List HostStep} {s : State} (hhost : s.host = rxWrites i F ++ rest)
    (hfit : i + F.length ≤ Config.bufCap) (k : Nat) :
    core.run (k + F.length) s = core.run k { s with rxBuf := Memory.writeBytes s.rxBuf i F, host := rest } := by
  induction F generalizing i s with
  | nil =>
    rw [rxWrites, List.nil_append] at hhost
    rw [← hhost]
    rfl
  | cons b F ih =>
    rw [List.length_cons] at hfit
    have hstep : step s = .next { s with rxBuf := Memory.write s.rxBuf i b, host := rxWrites (i + 1) F ++ rest } :=
      (step_of_host_write hhost).trans (State.hostWrite_rxByte_of_lt _ (by omega) b)
    rw [List.length_cons, ← Nat.add_assoc, core_run_succ_of_next _ hstep, ih rfl (by omega)]
    rfl

theorem step_of_host_decRsp {s : State} {rx : List Byte} {rest : List HostStep} (hhost : s.host = .command (.op 0x8) :: rest)
    (hrx : RxHolds s rx) : step s = .next (State.applyResponse { s with host := rest } (decRsp rx)) := by
  rw [step_of_host_op hhost, decodeOp_0x8]
  exact exec_decRsp_of_rxHolds hrx

/-- The state on which the host's `DEC_RSP` runs: the request sent, the answer stored, no host step left. -/
def answered (s : State) (rx : List Byte) : State := { (s.sendRequest.raise .ok).storeRx rx with host := [] }

theorem core_run_queryByParts {s : State} {rx : List Byte} (hhost : s.host = queryByParts rx) (hfit : rx.length ≤ Config.bufCap) :
    core.run (rx.length + 3) s = .next ((answered s rx).applyResponse (decRsp rx)) := by
  have hsend := step_of_host_op (hhost.trans (queryByParts_eq rx))
  rw [decodeOp_0x4, exec_encReq] at hsend
  rw [core_run_succ_of_next _ hsend, Nat.add_comm, core_run_rxWrites rfl (by omega),
    core_run_succ_of_next 1 ((step_of_host_write rfl).trans (State.hostWrite_rxLen_of_le _ hfit))]
  exact core_run_succ_of_next 0 (step_of_host_decRsp rfl (rxHolds_of_stored (s := s) rfl rfl))

/-- But for the transport and the host steps, `QUERY` ends where the host's own sequence does. -/
theorem queried_eq_answered {s : State} {rx : List Byte} (hrx : s.transport.nextAnswer = rx) (hne : rx ≠ []) :
    queried s rx =
      { (answered s rx).applyResponse (decRsp rx) with host := s.host, transport := (queried s rx).transport } := by
  rw [queried, State.classify_of_ne_nil _ hne, State.applyResponse_transport, ← State.applyResponse_host_transport _ s.status]
  subst hrx
  rfl

/-! ### The exchange of the two roles -/

theorem arrived_of_rxHolds_closed {s : State} {d : Request} (h : RxHolds s (closed (six d.id d.fc d.addr d.qty))) : Arrived s d := by
  obtain ⟨hlen, hread⟩ := h
  refine ⟨hlen.ge, fun i hi => ?_, fun _ => ⟨hread 6 (by decide : 6 < 8), hread 7 (by decide : 7 < 8)⟩⟩
  rw [hread i (Nat.lt_of_lt_of_le hi (by decide : 6 ≤ 8))]
  exact List.getElem?_append_left hi

theorem closed_ne_nil (P : List Byte) : closed P ≠ [] := List.append_ne_nil_of_right_ne_nil _ (List.cons_ne_nil _ _)

theorem closed_dataPayload_fits (id fc : Byte) {vs : List Word} (hvs : vs.length ≤ 127) :
    (closed (dataPayload id fc vs)).length ≤ Config.bufCap := by
  have hcap := bufCap_ge
  rw [closed_eq_withCrc, withCrc_length, dataPayload_length]
  omega

/-- A master whose transport holds a frame as its next answer ends with what `dec_rsp` of the frame says. -/
theorem exists_query_of_answer (m : State) {F : List Byte} (rest : List (List Byte)) (hfit : F.length ≤ Config.bufCap) (hne : F ≠ []) :
    ∃ m', exec .query { m with transport := { m.transport with answers := F :: rest } } = .next m' ∧
      ResponseWritten m m' (crc16 (requestPayload m.aId fcReadHolding m.aAddr m.aQty)) (decRsp F) :=
  ⟨_, exec_query_of_answers rfl hfit,
    responseWritten_of_results_eq rfl rfl rfl rfl
      (queried_responseWritten { m with transport := { m.transport with answers := F :: rest } } hne)⟩

end Sys2Proof.Claims

namespace Sys2Proof.Proofs

open Sys2Proof.Machine Sys2Proof.Claims

/-- Settles O36: the free answer is cut at `BUFCAP`, so it is received, and only the empty one is a timeout. -/
theorem queryCompletesOnAnyAnswer : Obligations.QueryCompletesOnAnyAnswer := by
  unfold Obligations.QueryCompletesOnAnyAnswer
  intro s hnone
  have hfit := Transport.nextAnswer_fits_of_none hnone
  rw [six_eq_requestPayload]
  refine ⟨_, _, exec_query_of_fits hfit, hfit, queried_rxHolds s, queried_txHolds s _, ?_, queried_status_eq_timeout_iff s _⟩
  rw [queried, State.classify_transport, closed_eq_withCrc]
  exact Transport.exchange_of_none hnone _

/-- Settles O37: the host's steps send the request, store the answer byte by byte and decode it, which is what `QUERY` does at once. -/
theorem queryIsTheCompositionOfItsParts : Obligations.QueryIsTheCompositionOfItsParts := by
  unfold Obligations.QueryIsTheCompositionOfItsParts
  rintro s _ rx rest hans hfit hne rfl
  exact ⟨queried s rx, _, exec_query_of_answers hans hfit, core_run_queryByParts rfl hfit,
    queried_eq_answered (Transport.nextAnswer_of_answers hans) hne⟩

/-- Settles O38: the slave's frame is a closed payload, and the master decodes it to what the slave encoded. -/
theorem masterReadsTheSlavesRegisters : Obligations.MasterReadsTheSlavesRegisters := by
  unfold Obligations.MasterReadsTheSlavesRegisters
  intro m s rest hid hB
  have harr : Arrived s ⟨m.aId, 0x03, m.aAddr, m.aQty⟩ := arrived_of_rxHolds_closed hB
  constructor
  · intro hrange hqty
    obtain ⟨s', hs', htx, -⟩ := respondServesTheRegisters s _ harr hid rfl hrange hqty
    have hlen : (registers s m.aAddr.toNat m.aQty.toNat).length ≤ 127 := by rwa [registers_length]
    obtain ⟨m', hm', hresp⟩ := exists_query_of_answer m rest (closed_dataPayload_fits m.aId 0x03 hlen) (closed_ne_nil _)
    rw [decRsp_closed_dataPayload (by decide) hlen] at hresp
    obtain ⟨hvals, hframe⟩ := hresp
    exact ⟨s', _, m', hs', htx, hm', (congrArg State.status hframe :), hvals⟩
  · intro hrange
    obtain ⟨hexc, -⟩ := respondAnswersIllegalDataAddress s _ harr hid rfl
    obtain ⟨s', hs', htx, -⟩ := hexc hrange
    obtain ⟨m', hm', hresp⟩ :=
      exists_query_of_answer m rest (Nat.le_trans (by decide : 5 ≤ 259) bufCap_ge) (closed_ne_nil [m.aId, 0x83, 0x02])
    rw [decRsp_closed_exception (by decide)] at hresp
    exact ⟨s', _, m', hs', htx, hm', (congrArg State.status hresp :), (congrArg State.rExc hresp :)⟩

end Sys2Proof.Proofs
end
